-- ==== Sys2Proof/Word.lean ====
section
/-! DEFINITION. The word and byte types of the engine, and the word count of a packet.
All values are unsigned and bit 0 is the least significant bit (00_scope.md rules R11, R13). -/

namespace Sys2Proof

/-- A FIFO word or a peripheral register (00_scope.md rules R8, R11). -/
abbrev Word := BitVec 32

/-- A 16-bit field of the SETUP latch or of the transfer context (00_scope.md rule R13). -/
abbrev Half := BitVec 16

/-- One byte of a packet or of a descriptor (00_scope.md rule R11). -/
abbrev Byte := BitVec 8

/-- `ceil4(n)`: how many words hold `n` bytes (00_scope.md rule R12). -/
def ceil4 (n : Nat) : Nat := (n + 3) / 4

end Sys2Proof
end

