-- ==== Sys2Proof/Config.lean ====
section
/-! DEFINITION. The parameters of the block: the constants the source fixes (00_scope.md rule R8), the
record of those it leaves open (rules R9, R10), among them the bit positions `REGMAP` and the addresses `REG_ADDR`, and
their constraints. The default values are in Machine/Layout.lean. -/

namespace Sys2Proof

/-- `EP0_MPS`: the packet size of endpoint 0 (00_scope.md rule R8). -/
def ep0Mps : BitVec 11 := 64

/-- `AS_INTERFACE`: the number of the audio-streaming interface (00_scope.md rule R8). -/
def asInterface : Half := 1

/-- `REQ_GET_DESCRIPTOR` (00_scope.md rule R8). -/
def reqGetDescriptor : Byte := 0x06

/-- `REQ_SET_ADDRESS` (00_scope.md rule R8). -/
def reqSetAddress : Byte := 0x05

/-- `REQ_SET_CONFIGURATION` (00_scope.md rule R8). -/
def reqSetConfiguration : Byte := 0x09

/-- `REQ_SET_INTERFACE` (00_scope.md rule R8). -/
def reqSetInterface : Byte := 0x0B

/-- `DT_DEVICE` (00_scope.md rule R8). -/
def dtDevice : Byte := 0x01

/-- `DT_CONFIGURATION` (00_scope.md rule R8). -/
def dtConfiguration : Byte := 0x02

/-- `ZLP_POLICY` (00_scope.md rule R10, decision D10). -/
inductive ZlpPolicy where
  | alwaysOnMultiple
  | onlyIfShortOfWLength
deriving DecidableEq, Repr

/-- `REQ_TYPE_CHECK` (00_scope.md rule R10, decision D6). -/
inductive ReqTypeCheck where
  | none
  | standardOnly
deriving DecidableEq, Repr

/-- Direction of an endpoint, named from the host's side (00_scope.md rule R19). -/
inductive Dir where
  | inp
  | out
deriving DecidableEq, Repr

/-- Endpoint numbers of the register file: 0 and `EP_STREAM` (10_state.md rule R47). -/
inductive Ep where
  | ep0
  | stream
deriving DecidableEq, Repr

/-- The names of the peripheral registers the engine can read (10_state.md rules R37 to R45). -/
inductive RegName where
  | gintsts
  | gintmsk
  | rxfsiz
  | txfsiz (n : Ep)
  | devcfg
  | depmsk
  | epctl (d : Dir) (n : Ep)
  | eptsiz (d : Dir) (n : Ep)
  | epint (d : Dir) (n : Ep)
deriving DecidableEq, Repr

/-- What has a place in a bus address space: the registers, `GCTL` among them, and the FIFO ports (10_state.md rules R34,
R36, R46, 20_memory.md rule R82). -/
inductive PortName where
  | gctl
  | register (r : RegName)
  | rxFifo
  | txFifo (n : Ep)
deriving DecidableEq, Repr

/-- `REGMAP` (00_scope.md rule R10, decision D3): where each field of the registers (10_state.md rules R37 to R45) and of
the RX status word (30_encoding.md rule R103) stands in its 32-bit word, by the position of its lowest bit, and the
full-speed code of `DEVCFG.speed`. The fields of a register class stand at the same positions in each of its registers,
those of `GINTMSK` where those of `GINTSTS` do (rule R38). The widths are those of the rules (log entry 3). -/
structure RegMap where
  /-- `GINTSTS.rxflvl` and `GINTMSK.rxflvl`. -/
  rxflvl : Nat
  /-- `GINTSTS.usbrst` and `GINTMSK.usbrst`. -/
  usbrst : Nat
  /-- `GINTSTS.enumdne` and `GINTMSK.enumdne`. -/
  enumdne : Nat
  /-- `GINTSTS.iepint` and `GINTMSK.iepint`. -/
  iepint : Nat
  /-- `rxsts.epnum`, 4 bits. -/
  epnum : Nat
  /-- `rxsts.bcnt`, 11 bits. -/
  bcnt : Nat
  /-- `rxsts.dpid`, 2 bits. -/
  dpid : Nat
  /-- `rxsts.pktsts`, 4 bits. -/
  pktsts : Nat
  /-- `rxsts.frmnum`, 4 bits. -/
  frmnum : Nat
  /-- `RXFSIZ.depth`, 16 bits. -/
  rxDepth : Nat
  /-- `TXFSIZ.start`, 16 bits. -/
  txStart : Nat
  /-- `TXFSIZ.depth`, 16 bits. -/
  txDepth : Nat
  /-- `DEVCFG.speed`, 2 bits. -/
  speed : Nat
  /-- `DEVCFG.addr`, 7 bits. -/
  addr : Nat
  /-- `DEPMSK.xfrc_mask`. -/
  xfrcMask : Nat
  /-- `EPCTL.mps`, 11 bits. -/
  mps : Nat
  /-- `EPCTL.nak`. -/
  nak : Nat
  /-- `EPCTL.stall`. -/
  stall : Nat
  /-- `EPCTL.cnak`. -/
  cnak : Nat
  /-- `EPCTL.enabled`. -/
  enabled : Nat
  /-- `EPTSIZ.xfrsiz`, 19 bits. -/
  xfrsiz : Nat
  /-- `EPTSIZ.pktcnt`, 10 bits. -/
  pktcnt : Nat
  /-- `EPINT.xfrc`. -/
  xfrc : Nat
  /-- The full-speed code of `DEVCFG.speed` (10_state.md rule R41). -/
  fullSpeed : BitVec 2
deriving DecidableEq, Repr

/-- Fields, each its lowest bit and its width, lie in a 32-bit word without overlap. -/
def fieldsApart : List (Nat × Nat) → Bool
  | [] => true
  | f :: rest =>
      decide (f.1 + f.2 ≤ 32) &&
      rest.all (fun g => decide (f.1 + f.2 ≤ g.1) || decide (g.1 + g.2 ≤ f.1)) && fieldsApart rest

/-- A layout: in each word every field has bits of its own. -/
def RegMap.wf (m : RegMap) : Bool :=
  fieldsApart [(m.rxflvl, 1), (m.usbrst, 1), (m.enumdne, 1), (m.iepint, 1)] &&
  fieldsApart [(m.epnum, 4), (m.bcnt, 11), (m.dpid, 2), (m.pktsts, 4), (m.frmnum, 4)] &&
  fieldsApart [(m.rxDepth, 16)] &&
  fieldsApart [(m.txStart, 16), (m.txDepth, 16)] &&
  fieldsApart [(m.speed, 2), (m.addr, 7)] &&
  fieldsApart [(m.xfrcMask, 1)] &&
  fieldsApart [(m.mps, 11), (m.nak, 1), (m.stall, 1), (m.cnak, 1), (m.enabled, 1)] &&
  fieldsApart [(m.xfrsiz, 19), (m.pktcnt, 10)] &&
  fieldsApart [(m.xfrc, 1)]

/-- The open parameters of the block (00_scope.md rules R9, R10). A state carries its configuration, no
step changes it, and a claim over all states is a claim over all configurations. -/
structure Config where
  /-- `STREAM_MPS` (rule R9), in the width of `EPCTL.mps`. -/
  streamMps : BitVec 11
  /-- `AS_ALT_ACTIVE` (rule R9). -/
  asAltActive : Half
  /-- `DEV_DESC` (rule R9). -/
  devDesc : List Byte
  /-- `CFG_DESC` (rule R9). -/
  cfgDesc : List Byte
  /-- `EP_STREAM` (rule R10), in the width of `rxsts.epnum`. -/
  epStream : BitVec 4
  /-- `RX_FIFO_DEPTH` in words (rule R10), in the width of `RXFSIZ.depth`. -/
  rxFifoDepth : BitVec 16
  /-- `TX_FIFO_DEPTH[0]` in words (rule R10), in the width of `TXFSIZ.depth`. -/
  txFifoDepth0 : BitVec 16
  /-- `TX_FIFO_DEPTH[EP_STREAM]` in words (rule R10). -/
  txFifoDepthS : BitVec 16
  /-- `PKTSTS_SETUP_RX` (30_encoding.md rule R104, decision D4). -/
  pktstsSetupRx : BitVec 4
  /-- `PKTSTS_SETUP_DONE` (30_encoding.md rule R104, decision D4). -/
  pktstsSetupDone : BitVec 4
  /-- `PKTSTS_OUT_RX` (30_encoding.md rule R104, decision D4). -/
  pktstsOutRx : BitVec 4
  /-- `ZLP_POLICY`. -/
  zlpPolicy : ZlpPolicy
  /-- `REQ_TYPE_CHECK`. -/
  reqTypeCheck : ReqTypeCheck
  /-- `SETIF_RECIPIENT_CHECK` (decision D7). -/
  setifRecipientCheck : Bool
  /-- `REGMAP` (rule R10, decision D3). -/
  regmap : RegMap
  /-- `REG_ADDR`, a map from names to addresses; no rule uses it (20_memory.md rule R82, decision D2). -/
  regAddr : List (PortName × Nat)
deriving DecidableEq, Repr

/-- The constraints of 00_scope.md rules R9 and R10 and of 30_encoding.md rule R104: a non-zero streaming
endpoint and active alternate, FIFO depths of at least 20 and 16 words, descriptor lengths from 1 to 65535,
three distinct packet-status codes, a layout whose fields do not overlap, at most one address for a name. -/
def Config.wf (c : Config) : Bool :=
  c.epStream != 0 && c.asAltActive != 0 &&
  decide (20 ≤ c.rxFifoDepth.toNat) && decide (16 ≤ c.txFifoDepth0.toNat) &&
  decide (1 ≤ c.devDesc.length) && decide (c.devDesc.length ≤ 65535) &&
  decide (1 ≤ c.cfgDesc.length) && decide (c.cfgDesc.length ≤ 65535) &&
  c.pktstsSetupRx != c.pktstsSetupDone && c.pktstsSetupRx != c.pktstsOutRx &&
  c.pktstsSetupDone != c.pktstsOutRx &&
  c.regmap.wf && decide (c.regAddr.map Prod.fst).Nodup

end Sys2Proof
end

