-- ==== Sys2Proof/Machine/Layout.lean ====
section
/-! DEFINITION. The default parameters of the block, the default layout `REGMAP` among them, and how fields are put into
and taken from 32-bit words at the positions of a layout. -/

namespace Sys2Proof

/-- A word with one bit, set when `b` is. -/
def bitAt (i : Nat) (b : Bool) : Word := if b then BitVec.ofNat 32 (2 ^ i) else 0

/-- A word with the field `v` from bit `lo` up, 0 elsewhere. -/
def fieldAt {n : Nat} (lo : Nat) (v : BitVec n) : Word := v.setWidth 32 <<< lo

/-- The four bits of `GINTSTS` that are not reserved (30_encoding.md rule R101). -/
def RegMap.gintMask (m : RegMap) : Word :=
  bitAt m.usbrst true ||| bitAt m.rxflvl true ||| bitAt m.enumdne true ||| bitAt m.iepint true

/-- The bits of the RX status word that are not reserved (30_encoding.md rule R103). -/
def RegMap.rxstsMask (m : RegMap) : Word :=
  fieldAt m.epnum (0b1111 : BitVec 4) ||| fieldAt m.bcnt (0x7FF : BitVec 11) ||| fieldAt m.dpid (0b11 : BitVec 2) |||
    fieldAt m.pktsts (0b1111 : BitVec 4) ||| fieldAt m.frmnum (0b1111 : BitVec 4)

/-- The default layout: 30_encoding.md rules R101 and R103, 10_state.md rules R37 to R45 (PRESUMED: the spec takes it from
the STM32F411 OTG_FS peripheral, log entry 3). -/
def RegMap.default : RegMap where
  rxflvl := 4
  usbrst := 12
  enumdne := 13
  iepint := 18
  epnum := 0
  bcnt := 4
  dpid := 15
  pktsts := 17
  frmnum := 21
  rxDepth := 0
  txStart := 0
  txDepth := 16
  speed := 0
  addr := 4
  xfrcMask := 0
  mps := 0
  nak := 17
  stall := 21
  cnak := 26
  enabled := 31
  xfrsiz := 0
  pktcnt := 19
  xfrc := 0
  fullSpeed := 0b11

/-- The default parameters of 00_scope.md rules R9 and R10; what those rules leave open (FIFO depths,
descriptor bytes) is the test configuration `T` of 95_test_vectors.md section 0 (DESIGN CHOICE, log entry 2), and no
name has an address (20_memory.md rule R82; DESIGN CHOICE, log entry 19). -/
def Config.default : Config where
  streamMps := 192
  asAltActive := 1
  devDesc := [0x12, 0x01, 0x00, 0x02, 0xEF, 0x02, 0x01, 0x40, 0x34,
              0x12, 0x78, 0x56, 0x00, 0x01, 0x01, 0x02, 0x03, 0x01]
  cfgDesc := [0x09, 0x02, 0x96, 0x00, 0x02, 0x01, 0x00, 0x80, 0x32] ++
             (List.range 141).map (fun i => BitVec.ofNat 8 (i + 9))
  epStream := 1
  rxFifoDepth := 64
  txFifoDepth0 := 32
  txFifoDepthS := 16
  pktstsSetupRx := 0b0110
  pktstsSetupDone := 0b0100
  pktstsOutRx := 0b0010
  zlpPolicy := .alwaysOnMultiple
  reqTypeCheck := .none
  setifRecipientCheck := true
  regmap := RegMap.default
  regAddr := []

end Sys2Proof
end

