-- ==== Sys2Proof/Syntax.lean ====
section
/-! DEFINITION. The events the engine decodes, its counterpart of instructions (00_scope.md rule R7), with
the operands each carries: four interrupt-status bits, four receive status words, nine SETUP packets
(30_encoding.md rules R100 to R109, one constructor per row of opcode_table.json). -/

namespace Sys2Proof

/-- The three event formats (30_encoding.md rule R100). -/
inductive Format where
  | gintsts
  | rxsts
  | setup
deriving DecidableEq, Repr

/-- The length of an event of a format in bytes (30_encoding.md rule R100). -/
def Format.bytes : Format → Nat
  | .gintsts => 4
  | .rxsts => 4
  | .setup => 8

/-- The fields of an RX status word and its reserved bits, these in their places (30_encoding.md rule R103). -/
structure RxStatus where
  epnum : BitVec 4
  bcnt : BitVec 11
  dpid : BitVec 2
  pktsts : BitVec 4
  frmnum : BitVec 4
  reserved : Word
deriving DecidableEq, Repr

/-- The fields of a SETUP packet (10_state.md rule R21, 30_encoding.md rule R105). -/
structure SetupPacket where
  requestType : Byte
  request : Byte
  value : Half
  index : Half
  length : Half
deriving DecidableEq, Repr

/-- An event with its operands. A receive event carries the whole status word and a SETUP event the whole
packet, so that no bit of an encoding is lost; `Instr.wf` says which words and packets belong to a row. -/
inductive Instr where
  /-- USBRST, 44_interrupt_dispatcher.md rule R232. -/
  | usbrst
  /-- RXFLVL, 44_interrupt_dispatcher.md rule R233. -/
  | rxflvl
  /-- ENUMDNE, 44_interrupt_dispatcher.md rule R241. -/
  | enumdne
  /-- IEPINT, 44_interrupt_dispatcher.md rule R242. -/
  | iepint
  /-- SETUP_RX, 44_interrupt_dispatcher.md rule R236. -/
  | setupRx (st : RxStatus)
  /-- SETUP_DONE, 44_interrupt_dispatcher.md rule R237. -/
  | setupDone (st : RxStatus)
  /-- OUT_RX, 44_interrupt_dispatcher.md rule R238. -/
  | outRx (st : RxStatus)
  /-- PKTSTS_OTHER, 44_interrupt_dispatcher.md rule R239. -/
  | pktstsOther (st : RxStatus)
  /-- GET_DESCRIPTOR_DEVICE, 43_request_decoder.md rule R203. -/
  | getDescriptorDevice (p : SetupPacket)
  /-- GET_DESCRIPTOR_CONFIGURATION, 43_request_decoder.md rule R204. -/
  | getDescriptorConfiguration (p : SetupPacket)
  /-- GET_DESCRIPTOR_OTHER, 43_request_decoder.md rule R205. -/
  | getDescriptorOther (p : SetupPacket)
  /-- SET_ADDRESS, 43_request_decoder.md rule R206. -/
  | setAddress (p : SetupPacket)
  /-- SET_CONFIGURATION, 43_request_decoder.md rule R207. -/
  | setConfiguration (p : SetupPacket)
  /-- SET_INTERFACE_AS_OFF, 43_request_decoder.md rule R209. -/
  | setInterfaceAsOff (p : SetupPacket)
  /-- SET_INTERFACE_AS_ON, 43_request_decoder.md rule R210. -/
  | setInterfaceAsOn (p : SetupPacket)
  /-- SET_INTERFACE_OTHER, 43_request_decoder.md rule R211. -/
  | setInterfaceOther (p : SetupPacket)
  /-- UNSUPPORTED_REQUEST, 43_request_decoder.md rule R212. -/
  | unsupportedRequest (p : SetupPacket)
deriving DecidableEq, Repr

/-- The format an event is encoded in (30_encoding.md rule R100). -/
def Instr.format : Instr → Format
  | .usbrst | .rxflvl | .enumdne | .iepint => .gintsts
  | .setupRx _ | .setupDone _ | .outRx _ | .pktstsOther _ => .rxsts
  | .getDescriptorDevice _ | .getDescriptorConfiguration _ | .getDescriptorOther _
  | .setAddress _ | .setConfiguration _
  | .setInterfaceAsOff _ | .setInterfaceAsOn _ | .setInterfaceOther _
  | .unsupportedRequest _ => .setup

end Sys2Proof
end

