-- ==== Sys2Proof/Machine/Operands.lean ====
section
/-! DEFINITION. How each operand is taken from a SETUP packet (30_encoding.md rules R106, R107): slices only,
unsigned, nothing sign-extended, scaled or shifted. -/

namespace Sys2Proof

/-- `request_type.direction`, bit 7 (30_encoding.md rule R106); never tested (rule R111). -/
def SetupPacket.direction (p : SetupPacket) : Bool := p.requestType.getLsbD 7

/-- `request_type.type`, bits 6:5 (30_encoding.md rule R106). -/
def SetupPacket.reqType (p : SetupPacket) : BitVec 2 := p.requestType.extractLsb' 5 2

/-- `request_type.recipient`, bits 4:0 (30_encoding.md rule R106). -/
def SetupPacket.recipient (p : SetupPacket) : BitVec 5 := p.requestType.extractLsb' 0 5

/-- The descriptor type of GET_DESCRIPTOR, `value[15:8]` (30_encoding.md rule R107). -/
def SetupPacket.descriptorType (p : SetupPacket) : Byte := p.value.extractLsb' 8 8

/-- The descriptor index of GET_DESCRIPTOR, `value[7:0]`; ignored (30_encoding.md rule R107). -/
def SetupPacket.descriptorIndex (p : SetupPacket) : Byte := p.value.extractLsb' 0 8

/-- The device address of SET_ADDRESS, `value[6:0]` (30_encoding.md rule R107). -/
def SetupPacket.deviceAddress (p : SetupPacket) : BitVec 7 := p.value.extractLsb' 0 7

/-- The configuration value of SET_CONFIGURATION; ignored (30_encoding.md rule R107). -/
def SetupPacket.configurationValue (p : SetupPacket) : Half := p.value

/-- The interface number of SET_INTERFACE, all 16 bits of `index` (30_encoding.md rule R107). -/
def SetupPacket.interfaceNumber (p : SetupPacket) : Half := p.index

/-- The alternate setting of SET_INTERFACE, all 16 bits of `value` (30_encoding.md rule R107). -/
def SetupPacket.alternateSetting (p : SetupPacket) : Half := p.value

/-- The response cap of GET_DESCRIPTOR (30_encoding.md rule R107). -/
def SetupPacket.responseCap (p : SetupPacket) : Nat := p.length.toNat

/-- `type_check_fails()` negated: with `REQ_TYPE_CHECK = standard_only` the request must be of type standard
(43_request_decoder.md rule R201). -/
def SetupPacket.typeAllowed (c : Config) (p : SetupPacket) : Bool :=
  match c.reqTypeCheck with
  | .none => true
  | .standardOnly => p.reqType == 0

/-- The recipient test of SET_INTERFACE, dropped when `SETIF_RECIPIENT_CHECK = false` (30_encoding.md rule R108). -/
def SetupPacket.recipientAllowed (c : Config) (p : SetupPacket) : Bool :=
  !c.setifRecipientCheck || p.recipient == 1

end Sys2Proof
end

