-- ==== Sys2Proof/WellFormed.lean ====
section
/-! DEFINITION. Which operands belong to which row of the opcode table (30_encoding.md rules R104, R108,
R110): a status word belongs to the row its `pktsts` selects, a SETUP packet to the first row whose test
it passes. Each row's test is written out on its own; the decoder tests in order. -/

namespace Sys2Proof

/-- The packet asks for a descriptor of type `t`. -/
def SetupPacket.asksDescriptor (p : SetupPacket) (t : Byte) : Bool :=
  p.request == reqGetDescriptor && p.descriptorType == t

/-- The packet is a SET_INTERFACE to an interface (rule R108 tests 6 to 8). -/
def SetupPacket.asksInterface (c : Config) (p : SetupPacket) : Bool :=
  p.request == reqSetInterface && p.recipientAllowed c

/-- The packet selects alternate `alt` of the audio-streaming interface. -/
def SetupPacket.asksAlternate (c : Config) (p : SetupPacket) (alt : Half) : Bool :=
  p.asksInterface c && p.interfaceNumber == asInterface && p.alternateSetting == alt

/-- The packet is one of the requests the engine supports (43_request_decoder.md rule R214), GET_DESCRIPTOR of an
unknown type included. -/
def SetupPacket.listed (c : Config) (p : SetupPacket) : Bool :=
  p.typeAllowed c &&
    (p.request == reqGetDescriptor || p.request == reqSetAddress ||
      p.request == reqSetConfiguration || p.asksInterface c)

/-- The reserved part of a status word lies in the reserved bits (30_encoding.md rule R103). -/
def RxStatus.reservedApart (c : Config) (st : RxStatus) : Bool := st.reserved &&& c.regmap.rxstsMask == 0

/-- The event's operands are operands of its row. -/
def Instr.wf (c : Config) : Instr → Bool
  | .usbrst | .rxflvl | .enumdne | .iepint => true
  | .setupRx st => st.reservedApart c && st.pktsts == c.pktstsSetupRx
  | .setupDone st => st.reservedApart c && st.pktsts == c.pktstsSetupDone && st.pktsts != c.pktstsSetupRx
  | .outRx st =>
      st.reservedApart c && st.pktsts == c.pktstsOutRx && st.pktsts != c.pktstsSetupRx && st.pktsts != c.pktstsSetupDone
  | .pktstsOther st =>
      st.reservedApart c && st.pktsts != c.pktstsSetupRx && st.pktsts != c.pktstsSetupDone &&
        st.pktsts != c.pktstsOutRx
  | .getDescriptorDevice p => p.typeAllowed c && p.asksDescriptor dtDevice
  | .getDescriptorConfiguration p => p.typeAllowed c && p.asksDescriptor dtConfiguration
  | .getDescriptorOther p =>
      p.typeAllowed c && p.request == reqGetDescriptor &&
        p.descriptorType != dtDevice && p.descriptorType != dtConfiguration
  | .setAddress p => p.typeAllowed c && p.request == reqSetAddress
  | .setConfiguration p => p.typeAllowed c && p.request == reqSetConfiguration
  | .setInterfaceAsOff p => p.typeAllowed c && p.asksAlternate c 0
  | .setInterfaceAsOn p => p.typeAllowed c && p.asksAlternate c c.asAltActive && p.alternateSetting != 0
  | .setInterfaceOther p =>
      p.typeAllowed c && p.asksInterface c && !p.asksAlternate c 0 && !p.asksAlternate c c.asAltActive
  | .unsupportedRequest p => !p.listed c

end Sys2Proof
end

