-- ==== Sys2Proof/Decode.lean ====
section
/-! DEFINITION. From bits to events and back. The three formats of 30_encoding.md rule R100 are decoded by
rules R101 to R109; `GINTSTS` yields every event whose bit is set, in priority order (rule R102), the other
two formats yield the first row that matches. The encoder is written from the same tables, and at the end
stand the readings of a bare opcode-table word. -/

namespace Sys2Proof

/-- Why a byte string is not one event. -/
inductive DecodeError where
  /-- The byte string has not the length of its format (30_encoding.md rule R100). -/
  | wrongLength (f : Format) (given : Nat)
  /-- A `GINTSTS` word with none of the four bits set (44_interrupt_dispatcher.md rule R244). -/
  | noEvent
  /-- A `GINTSTS` word with several of the four bits set: `gintstsEvents` gives them all (30_encoding.md rule R102). -/
  | severalEvents
deriving DecidableEq, Repr

/-- An event, or the name of the reason why there is none. -/
inductive Decoded where
  | event (i : Instr)
  | rejected (e : DecodeError)
deriving DecidableEq, Repr

/-- Four bytes as a little-endian word, the first in bits 7:0 (20_memory.md rule R70). -/
def leWord (b0 b1 b2 b3 : Byte) : Word := b3 ++ b2 ++ b1 ++ b0

/-- The four bytes of a word, lowest lane first (20_memory.md rule R71). -/
def wordBytes (w : Word) : List Byte :=
  [w.extractLsb' 0 8, w.extractLsb' 8 8, w.extractLsb' 16 8, w.extractLsb' 24 8]

/-- The fields of an RX status word in a layout (30_encoding.md rule R103). -/
def RxStatus.ofWord (m : RegMap) (w : Word) : RxStatus where
  epnum := w.extractLsb' m.epnum 4
  bcnt := w.extractLsb' m.bcnt 11
  dpid := w.extractLsb' m.dpid 2
  pktsts := w.extractLsb' m.pktsts 4
  frmnum := w.extractLsb' m.frmnum 4
  reserved := w &&& ~~~m.rxstsMask

/-- The RX status word of its fields in a layout (30_encoding.md rule R103). -/
def RxStatus.toWord (m : RegMap) (st : RxStatus) : Word :=
  fieldAt m.epnum st.epnum ||| fieldAt m.bcnt st.bcnt ||| fieldAt m.dpid st.dpid ||| fieldAt m.pktsts st.pktsts |||
    fieldAt m.frmnum st.frmnum ||| (st.reserved &&& ~~~m.rxstsMask)

/-- `decode_setup(b)` on the eight bytes in the order received (43_request_decoder.md rule R200): the 16-bit
fields are little-endian (20_memory.md rule R74). -/
def SetupPacket.ofBytes (b0 b1 b2 b3 b4 b5 b6 b7 : Byte) : SetupPacket where
  requestType := b0
  request := b1
  value := b3 ++ b2
  index := b5 ++ b4
  length := b7 ++ b6

/-- The eight bytes of a SETUP packet in the order sent (30_encoding.md rule R105). -/
def SetupPacket.toBytes (p : SetupPacket) : List Byte :=
  [p.requestType, p.request,
   p.value.extractLsb' 0 8, p.value.extractLsb' 8 8,
   p.index.extractLsb' 0 8, p.index.extractLsb' 8 8,
   p.length.extractLsb' 0 8, p.length.extractLsb' 8 8]

/-- The first data word of a SETUP entry (30_encoding.md rule R105). -/
def SetupPacket.word0 (p : SetupPacket) : Word := p.value ++ p.request ++ p.requestType

/-- The second data word of a SETUP entry (30_encoding.md rule R105). -/
def SetupPacket.word1 (p : SetupPacket) : Word := p.length ++ p.index

/-- The SETUP packet of its two data words (30_encoding.md rule R105). -/
def SetupPacket.ofWords (w0 w1 : Word) : SetupPacket where
  requestType := w0.extractLsb' 0 8
  request := w0.extractLsb' 8 8
  value := w0.extractLsb' 16 16
  index := w1.extractLsb' 0 16
  length := w1.extractLsb' 16 16

/-- The events of a `GINTSTS` word in the dispatcher's fixed order: bus reset, receive FIFO non-empty,
enumeration done, IN-endpoint interrupt; reserved bits select nothing (30_encoding.md rule R102). -/
def gintstsEvents (m : RegMap) (g : Word) : List Instr :=
  (if g.getLsbD m.usbrst then [Instr.usbrst] else []) ++
  (if g.getLsbD m.rxflvl then [Instr.rxflvl] else []) ++
  (if g.getLsbD m.enumdne then [Instr.enumdne] else []) ++
  (if g.getLsbD m.iepint then [Instr.iepint] else [])

/-- The one event of a `GINTSTS` word, where it has exactly one. -/
def decodeGintsts (m : RegMap) (g : Word) : Decoded :=
  match gintstsEvents m g with
  | [] => .rejected .noEvent
  | [i] => .event i
  | _ :: _ :: _ => .rejected .severalEvents

/-- The event of an RX status word: the first row whose `pktsts` it has (30_encoding.md rule R104). -/
def decodeRxsts (c : Config) (w : Word) : Instr :=
  let st := RxStatus.ofWord c.regmap w
  if st.pktsts = c.pktstsSetupRx then .setupRx st
  else if st.pktsts = c.pktstsSetupDone then .setupDone st
  else if st.pktsts = c.pktstsOutRx then .outRx st
  else .pktstsOther st

/-- The event of a SETUP packet: the tests of 30_encoding.md rule R108 in their order, the first that holds. -/
def decodeSetup (c : Config) (p : SetupPacket) : Instr :=
  if p.typeAllowed c && p.request == reqGetDescriptor && p.descriptorType == dtDevice then
    .getDescriptorDevice p
  else if p.typeAllowed c && p.request == reqGetDescriptor && p.descriptorType == dtConfiguration then
    .getDescriptorConfiguration p
  else if p.typeAllowed c && p.request == reqGetDescriptor then .getDescriptorOther p
  else if p.typeAllowed c && p.request == reqSetAddress then .setAddress p
  else if p.typeAllowed c && p.request == reqSetConfiguration then .setConfiguration p
  else if p.typeAllowed c && p.request == reqSetInterface && p.recipientAllowed c &&
      p.interfaceNumber == asInterface && p.alternateSetting == 0 then .setInterfaceAsOff p
  else if p.typeAllowed c && p.request == reqSetInterface && p.recipientAllowed c &&
      p.interfaceNumber == asInterface && p.alternateSetting == c.asAltActive then .setInterfaceAsOn p
  else if p.typeAllowed c && p.request == reqSetInterface && p.recipientAllowed c then
    .setInterfaceOther p
  else .unsupportedRequest p

/-- The decoder: the event of a byte string in a format, or why there is none. Every string of the right length
decodes in the formats RXSTS and SETUP (30_encoding.md rule R110: there is no trap). -/
def decode (c : Config) (f : Format) (bs : List Byte) : Decoded :=
  match f, bs with
  | .gintsts, [b0, b1, b2, b3] => decodeGintsts c.regmap (leWord b0 b1 b2 b3)
  | .rxsts, [b0, b1, b2, b3] => .event (decodeRxsts c (leWord b0 b1 b2 b3))
  | .setup, [b0, b1, b2, b3, b4, b5, b6, b7] =>
      .event (decodeSetup c (SetupPacket.ofBytes b0 b1 b2 b3 b4 b5 b6 b7))
  | f, bs => .rejected (.wrongLength f bs.length)

/-- The bytes of an event, reserved bits of `GINTSTS` zero (30_encoding.md rules R101, R103, R105). -/
def encode (c : Config) : Instr → List Byte
  | .usbrst => wordBytes (bitAt c.regmap.usbrst true)
  | .rxflvl => wordBytes (bitAt c.regmap.rxflvl true)
  | .enumdne => wordBytes (bitAt c.regmap.enumdne true)
  | .iepint => wordBytes (bitAt c.regmap.iepint true)
  | .setupRx st | .setupDone st | .outRx st | .pktstsOther st => wordBytes (st.toWord c.regmap)
  | .getDescriptorDevice p | .getDescriptorConfiguration p | .getDescriptorOther p
  | .setAddress p | .setConfiguration p
  | .setInterfaceAsOff p | .setInterfaceAsOn p | .setInterfaceOther p
  | .unsupportedRequest p => p.toBytes

/-- A row of the decode map on the 64-bit value `S` of a SETUP packet (30_encoding.md rule R109). -/
structure SetupRow where
  mask : BitVec 64
  pattern : BitVec 64
  event : SetupPacket → Instr

/-- The SETUP rows of 30_encoding.md rule R109, for the default parameters, in the order they are tried. -/
def setupRows : List SetupRow :=
  [⟨0x00000000FF00FF00, 0x0000000001000600, .getDescriptorDevice⟩,
   ⟨0x00000000FF00FF00, 0x0000000002000600, .getDescriptorConfiguration⟩,
   ⟨0x000000000000FF00, 0x0000000000000600, .getDescriptorOther⟩,
   ⟨0x000000000000FF00, 0x0000000000000500, .setAddress⟩,
   ⟨0x000000000000FF00, 0x0000000000000900, .setConfiguration⟩,
   ⟨0x0000FFFFFFFFFF1F, 0x0000000100000B01, .setInterfaceAsOff⟩,
   ⟨0x0000FFFFFFFFFF1F, 0x0000000100010B01, .setInterfaceAsOn⟩,
   ⟨0x000000000000FF1F, 0x0000000000000B01, .setInterfaceOther⟩,
   ⟨0x0000000000000000, 0x0000000000000000, .unsupportedRequest⟩]

/-- The packet of the 64-bit value `S` (30_encoding.md rule R105). -/
def SetupPacket.ofS (s : BitVec 64) : SetupPacket :=
  SetupPacket.ofWords (s.extractLsb' 0 32) (s.extractLsb' 32 32)

/-- The first row of the table that matches `S`: a row matches when `S and mask = match` (rule R109). -/
def tableSetup (s : BitVec 64) : Option Instr :=
  (setupRows.find? (fun r => s &&& r.mask == r.pattern)).map (fun r => r.event (SetupPacket.ofS s))

/-- A row of the decode map on an RX status word (30_encoding.md rule R109). -/
structure RxRow where
  mask : Word
  pattern : Word
  event : RxStatus → Instr

/-- The RXSTS rows of 30_encoding.md rule R109, for the default parameters, in the order they are tried. -/
def rxRows : List RxRow :=
  [⟨0x001E0000, 0x000C0000, .setupRx⟩,
   ⟨0x001E0000, 0x00080000, .setupDone⟩,
   ⟨0x001E0000, 0x00040000, .outRx⟩,
   ⟨0x00000000, 0x00000000, .pktstsOther⟩]

/-- The first RXSTS row of the table that matches a word (rule R109). -/
def tableRxsts (w : Word) : Option Instr :=
  (rxRows.find? (fun r => w &&& r.mask == r.pattern)).map (fun r => r.event (RxStatus.ofWord RegMap.default w))

/-- The first and the second 32-bit word of a table word, zero above its bits. -/
def tableWord0 (nbits w : Nat) : Word := BitVec.ofNat 32 (w % 2 ^ nbits)

/-- See `tableWord0`. -/
def tableWord1 (nbits w : Nat) : Word := BitVec.ofNat 32 (w % 2 ^ nbits / 2 ^ 32)

/-- The format a bare opcode-table word is read in. The table's words do not say their format, so this is the
model's reading (DESIGN CHOICE, log entry 14): more than 32 bits, or a first word whose byte 1 is one of the four
request codes, is a SETUP packet; a word with exactly one of the four interrupt-status bits and nothing else is
`GINTSTS`; every other word is an RX status word. -/
def tableFormat (nbits w : Nat) : Format :=
  let w0 := tableWord0 nbits w
  let code : Byte := w0.extractLsb' 8 8
  if 32 < nbits then .setup
  else if code = reqGetDescriptor ∨ code = reqSetAddress ∨ code = reqSetConfiguration ∨ code = reqSetInterface then
    .setup
  else if w0 = 0x00001000 ∨ w0 = 0x00000010 ∨ w0 = 0x00002000 ∨ w0 = 0x00040000 then .gintsts
  else .rxsts

/-- The bytes of a bare table word as the hardware stores them: each word little-endian, the first word first. -/
def tableBytes (nbits w : Nat) : List Byte :=
  match tableFormat nbits w with
  | .gintsts | .rxsts => wordBytes (tableWord0 nbits w)
  | .setup => wordBytes (tableWord0 nbits w) ++ wordBytes (tableWord1 nbits w)

/-- The instruction the decoder reads from a bare word of opcode_table.json, under the default parameters the
table is written for (30_encoding.md rule R117). -/
def decodeTableWord (nbits w : Nat) : Option Instr :=
  match decode Config.default (tableFormat nbits w) (tableBytes nbits w) with
  | .event i => some i
  | .rejected _ => none

end Sys2Proof
end

