-- ==== Sys2Proof/Machine/State.lean ====
section
/-! DEFINITION. The machine's state as plain data: the engine's registers (10_state.md rules R20 to R30), the
peripheral registers it drives (rules R36 to R47), the FIFOs (rules R49, R50), the fault record (rule R56), the
environment's bookkeeping (45_environment.md rules R260, R263) and two fields of the model's own (the schedule of
moves and the list of port accesses). The reasons a step can stop, and the state after power-on (rule R54). -/

namespace Sys2Proof.Machine

/-- `ctx.src`: the descriptor a response is read from (10_state.md rule R24). -/
inductive Src where
  | dev
  | cfg
deriving DecidableEq, Repr

/-- `cte_state` (10_state.md rule R28, 42_control_transfer_engine.md rule R170). -/
inductive CteState where
  | idle
  | setupReceived
  | txInProgress
  | statusPending
deriving DecidableEq, Repr

/-- The ControlTransferContext (10_state.md rules R23 to R27). -/
structure Ctx where
  src : Src
  offset : Half
  remaining : Half
  mps : BitVec 11
  zlpPending : Bool
deriving DecidableEq, Repr

/-- The four bits of `GINTMSK` (10_state.md rule R38). -/
structure GintMask where
  rxflvl : Bool
  usbrst : Bool
  enumdne : Bool
  iepint : Bool
deriving DecidableEq, Repr

/-- `DEVCFG` (10_state.md rule R41); `addr` is the one copy of the device address (rule R30). -/
structure DevCfg where
  speed : BitVec 2
  addr : BitVec 7
deriving DecidableEq, Repr

/-- `TXFSIZ[n]` (10_state.md rule R40). -/
structure TxFSiz where
  start : BitVec 16
  depth : BitVec 16
deriving DecidableEq, Repr

/-- The stored fields of `EPCTL[d][n]` (10_state.md rule R43); the command bit `cnak` stores nothing. -/
structure EpCtl where
  mps : BitVec 11
  nak : Bool
  stall : Bool
  enabled : Bool
deriving DecidableEq, Repr

/-- `EPTSIZ[d][n]` (10_state.md rule R44). -/
structure EpTsiz where
  pktcnt : BitVec 10
  xfrsiz : BitVec 19
deriving DecidableEq, Repr

/-- One entry of the endpoint register file: `EPCTL`, `EPTSIZ` and `EPINT.xfrc` (10_state.md rules R45, R47). -/
structure EpRegs where
  ctl : EpCtl
  tsiz : EpTsiz
  xfrc : Bool
deriving DecidableEq, Repr

/-- The fault record, a set of model-level fault names (10_state.md rule R56, 60_exceptions.md rule R286);
`F_TX_OVERFLOW` is recorded for each endpoint. -/
structure FaultRecord where
  rxUnderflow : Bool
  txOverflow0 : Bool
  txOverflowS : Bool
  txStale : Bool
deriving DecidableEq, Repr

/-- The empty fault record (10_state.md rule R56). -/
def FaultRecord.empty : FaultRecord := ⟨false, false, false, false⟩

/-- The fields of one write of `EPCTL`: the stored fields, the written value of the read-only `nak`, and the
command bit `cnak` (10_state.md rules R35, R43). -/
structure EpCtlWrite where
  mps : BitVec 11
  nak : Bool
  stall : Bool
  cnak : Bool
  enabled : Bool
deriving DecidableEq, Repr

/-- One register write with its named fields (00_scope.md rule R12 `RegWrite`). -/
inductive RegWrite where
  | gintsts (usbrst enumdne : Bool)
  | gintmsk (m : GintMask)
  | rxfsiz (depth : BitVec 16)
  | txfsiz (n : Ep) (v : TxFSiz)
  | devcfg (v : DevCfg)
  | depmsk (xfrcMask : Bool)
  | epctl (d : Dir) (n : Ep) (v : EpCtlWrite)
  | eptsiz (d : Dir) (n : Ep) (v : EpTsiz)
  | epint (d : Dir) (n : Ep) (xfrc : Bool)
deriving DecidableEq, Repr

/-- One access the engine makes (20_memory.md rule R78). -/
inductive Access where
  | read (r : RegName)
  | write (w : RegWrite)
  | popRx (w : Word)
  | pushTx (n : Ep) (w : Word)
  | desc (src : Src) (i : Nat)
deriving DecidableEq, Repr

/-- The fields and lanes of an RX entry that may hold any value: `dpid`, `frmnum`, the reserved bits and the unused
byte lanes of the last data word (20_memory.md rule R73, 45_environment.md rules R263 to R267, U4 to U6). -/
structure AnyBits where
  dpid : BitVec 2
  frmnum : BitVec 4
  reserved : Word
  lanes : Word
deriving DecidableEq, Repr

/-- The steps of the environment (45_environment.md rules R261 to R267). -/
inductive EnvStep where
  | busReset
  | enumDone
  | setup (p : SetupPacket) (x : AnyBits)
  | setupDone (x : AnyBits)
  | inToken (n : Ep)
  | outPacket (n : Ep) (bytes : List Byte) (x : AnyBits)
  | other (code : BitVec 4) (epnum : BitVec 4) (x : AnyBits)
deriving DecidableEq, Repr

/-- A line of a schedule: an environment step, one service step, or service steps until the interrupt line is low
(30_encoding.md rule R113). -/
inductive Move where
  | env (e : EnvStep)
  | service
  | serviceAll
deriving DecidableEq, Repr

/-- The events of the wire trace (45_environment.md rule R260). -/
inductive WireEvent where
  | reset
  | setup (p : SetupPacket)
  | inData (n : Ep) (bytes : List Byte)
  | inNak (n : Ep)
  | inStall (n : Ep)
  | outAck (n : Ep) (bytes : List Byte)
  | outNak (n : Ep)
  | outStall (n : Ep)
deriving DecidableEq, Repr

/-- The whole state. The step relation is a deterministic function of it; which agent moves next is the field
`schedule` (log entry 4). -/
@[ext]
structure State where
  /-- The parameters of the block, constant in a run (00_scope.md rules R9, R10, R15). -/
  cfg : Config
  /-- The SETUP latch (10_state.md rules R20, R21). -/
  setup : SetupPacket
  /-- The ControlTransferContext (10_state.md rule R23). -/
  ctx : Ctx
  /-- `cte_state` (10_state.md rule R28). -/
  cteState : CteState
  /-- `streaming_enabled` (10_state.md rule R29). -/
  streamingEnabled : Bool
  /-- `GCTL`, opaque (10_state.md rule R36). -/
  gctl : Word
  /-- `GINTSTS.usbrst` (10_state.md rule R37). -/
  usbrst : Bool
  /-- `GINTSTS.enumdne` (10_state.md rule R37). -/
  enumdne : Bool
  /-- What the peripheral returns in the reserved bits of `GINTSTS`, which the spec leaves open at each read (10_state.md rule
  R34, U5). That every read of a run returns the same is the model's choice (DESIGN CHOICE, log entry 17). -/
  gintReserved : Word
  /-- `GINTMSK` (10_state.md rule R38). -/
  gintmsk : GintMask
  /-- `RXFSIZ.depth` (10_state.md rule R39). -/
  rxfsiz : BitVec 16
  /-- `TXFSIZ[0]` (10_state.md rule R40). -/
  txfsiz0 : TxFSiz
  /-- `TXFSIZ[EP_STREAM]` (10_state.md rule R40). -/
  txfsizS : TxFSiz
  /-- `DEVCFG` (10_state.md rule R41). -/
  devcfg : DevCfg
  /-- `DEPMSK.xfrc_mask` (10_state.md rule R42). -/
  depmsk : Bool
  /-- The register file entry (IN, 0) (10_state.md rule R47). -/
  epIn0 : EpRegs
  /-- The register file entry (OUT, 0) (10_state.md rule R47). -/
  epOut0 : EpRegs
  /-- The register file entry (IN, `EP_STREAM`) (10_state.md rule R47). -/
  epInS : EpRegs
  /-- The register file entry (OUT, `EP_STREAM`) (10_state.md rule R47). -/
  epOutS : EpRegs
  /-- The RX FIFO, head first (10_state.md rule R49). -/
  rxFifo : List Word
  /-- TX FIFO 0, head first (10_state.md rule R50). -/
  txFifo0 : List Word
  /-- TX FIFO `EP_STREAM`, head first (10_state.md rule R50). -/
  txFifoS : List Word
  /-- The fault record (10_state.md rule R56). -/
  faults : FaultRecord
  /-- The environment's `setup_done_owed` (45_environment.md rule R263). -/
  setupDoneOwed : Bool
  /-- The wire trace, oldest event first (45_environment.md rule R260, 00_scope.md rule R17). -/
  wire : List WireEvent
  /-- The model's own: the moves still to come, the next first (log entry 4). -/
  schedule : List Move
  /-- The model's own: the accesses of the service step last begun, in order (20_memory.md rule R88; log entry 6). -/
  accesses : List Access
deriving DecidableEq, Repr

/-- Why a step has no successor. Each constructor carries the state at the stop, with the fault recorded in it where
the fault is one of 60_exceptions.md rule R286 (log entry 8). -/
inductive Fault where
  /-- `F_RX_UNDERFLOW`: `PopRx()` on an empty RX FIFO. Raised by `popRx` (40_fifo_access.md rule R130). Safe: the
  spec gives the step no successor. -/
  | rxUnderflow (stopped : State)
  /-- `F_TX_OVERFLOW(n)`: `PushTx(n, w)` into a full TX FIFO. Raised by `pushTx` (40_fifo_access.md rule R131). Safe:
  the spec gives the step no successor. -/
  | txOverflow (n : Ep) (stopped : State)
  /-- A read of the descriptor store past its end, which 20_memory.md rule R72 says the engine never issues. Raised by
  `readDesc`, only in states the invariant `State.transferCoherent` rules out. Safe: the model stops (log entry 9). -/
  | descOverrun (stopped : State)
  /-- An endpoint 0 IN completion in state `SetupReceived`, which 42_control_transfer_engine.md rule R180 calls
  unreachable. Raised by `inComplete`, only in states the invariant `State.notDecoding` rules out. Safe: the model
  stops (log entry 10). -/
  | completionWhileDecoding (stopped : State)
deriving DecidableEq, Repr

/-- Why the model gives an event no meaning. No event of this model is refused. -/
inductive Refusal where
  /-- An event that has no meaning yet; raised by `exec`'s arm for it. Safe: the model stops. -/
  | notModelled (mnemonic : String)
deriving DecidableEq, Repr

/-- What a meaning, or an operation it is built from, answers. -/
abbrev Result (α : Type) := Host.Outcome α Fault Refusal

/-- An entry of the endpoint register file at power-on (10_state.md rule R54). -/
def EpRegs.powerOn : EpRegs where
  ctl := ⟨0, true, false, false⟩
  tsiz := ⟨0, 0⟩
  xfrc := false

/-- The power-on state of 10_state.md rule R54 for a configuration, the platform's initialisation done
(70_reset_and_hazards.md rule R322). What the rule leaves unspecified (the SETUP latch, `ctx.src`, `ctx.offset`, `GCTL`,
`TXFSIZ.start`, the reserved bits of `GINTSTS`) is zero or the first of its names (DESIGN CHOICE, log entry 1). -/
def State.powerOn (c : Config) : State where
  cfg := c
  setup := ⟨0, 0, 0, 0, 0⟩
  ctx := ⟨.dev, 0, 0, ep0Mps, false⟩
  cteState := .idle
  streamingEnabled := false
  gctl := 0
  usbrst := false
  enumdne := false
  gintReserved := 0
  gintmsk := ⟨true, true, true, true⟩
  rxfsiz := c.rxFifoDepth
  txfsiz0 := ⟨0, c.txFifoDepth0⟩
  txfsizS := ⟨0, c.txFifoDepthS⟩
  devcfg := ⟨c.regmap.fullSpeed, 0⟩
  depmsk := true
  epIn0 := EpRegs.powerOn
  epOut0 := EpRegs.powerOn
  epInS := EpRegs.powerOn
  epOutS := EpRegs.powerOn
  rxFifo := []
  txFifo0 := []
  txFifoS := []
  faults := FaultRecord.empty
  setupDoneOwed := false
  wire := []
  schedule := []
  accesses := []

/-- The machine right after reset, for the default parameters. -/
def State.reset : State := State.powerOn Config.default

end Sys2Proof.Machine
end

