-- ==== Sys2Proof/Machine/Flags.lean ====
section
/-! DEFINITION. The flags the block computes: the levels `rxflvl` and `iepint` (10_state.md rules R31, R37), the
`GINTSTS` word the service step reads (30_encoding.md rule R101), and the interrupt line (60_exceptions.md rule R288). -/

namespace Sys2Proof.Machine

/-- `GINTSTS.rxflvl`, the level "RX FIFO not empty" (10_state.md rule R49). -/
def State.rxflvl (s : State) : Bool := !s.rxFifo.isEmpty

/-- `GINTSTS.iepint`, the level "some `EPINT[IN][n].xfrc` set with `DEPMSK.xfrc_mask` = 1" (10_state.md rules R31, R42). -/
def State.iepint (s : State) : Bool := s.depmsk && (s.epIn0.xfrc || s.epInS.xfrc)

/-- What a read of `GINTSTS` returns: the four flags in their places (30_encoding.md rule R101), any value in the
reserved bits (10_state.md rule R34). -/
def State.gintsts (s : State) : Word :=
  let m := s.cfg.regmap
  bitAt m.usbrst s.usbrst ||| bitAt m.rxflvl s.rxflvl ||| bitAt m.enumdne s.enumdne ||| bitAt m.iepint s.iepint |||
    (s.gintReserved &&& ~~~m.gintMask)

/-- The `GINTMSK` word in a layout, reserved bits 0 (10_state.md rule R38). -/
def GintMask.toWord (m : RegMap) (k : GintMask) : Word :=
  bitAt m.usbrst k.usbrst ||| bitAt m.rxflvl k.rxflvl ||| bitAt m.enumdne k.enumdne ||| bitAt m.iepint k.iepint

/-- The interrupt line: some flag and its mask bit are both 1 (60_exceptions.md rule R288). -/
def State.irq (s : State) : Bool :=
  (s.usbrst && s.gintmsk.usbrst) || (s.rxflvl && s.gintmsk.rxflvl) ||
    (s.enumdne && s.gintmsk.enumdne) || (s.iepint && s.gintmsk.iepint)

end Sys2Proof.Machine
end

