-- ==== Sys2Proof/Machine/Ops.lean ====
section
/-! DEFINITION. The named operations every event is built from: the accessors of registers and FIFOs, register
writes with their access kinds, the Packet FIFO Access unit (40_fifo_access.md), the Endpoint State unit
(41_endpoint_state.md), the Control Transfer Engine (42_control_transfer_engine.md), the error signal STALL, and
entering a service step (60_exceptions.md rule R292). Each port access is appended to the access list in the order
the rules' pseudocode makes it (20_memory.md rule R88). -/

namespace Sys2Proof.Machine

/-! ## Accessors -/

/-- The endpoint register file as a function of its index (10_state.md rule R47). -/
def State.ep (s : State) (d : Dir) (n : Ep) : EpRegs :=
  match d, n with
  | .inp, .ep0 => s.epIn0
  | .out, .ep0 => s.epOut0
  | .inp, .stream => s.epInS
  | .out, .stream => s.epOutS

/-- The state with one entry of the endpoint register file replaced. -/
def State.setEp (s : State) (d : Dir) (n : Ep) (r : EpRegs) : State :=
  match d, n with
  | .inp, .ep0 => { s with epIn0 := r }
  | .out, .ep0 => { s with epOut0 := r }
  | .inp, .stream => { s with epInS := r }
  | .out, .stream => { s with epOutS := r }

/-- TX FIFO `n`, the one of IN endpoint `n` (10_state.md rule R50, decision D38). -/
def State.txFifo (s : State) (n : Ep) : List Word :=
  match n with
  | .ep0 => s.txFifo0
  | .stream => s.txFifoS

/-- The state with TX FIFO `n` replaced. -/
def State.setTxFifo (s : State) (n : Ep) (q : List Word) : State :=
  match n with
  | .ep0 => { s with txFifo0 := q }
  | .stream => { s with txFifoS := q }

/-- The state with the RX FIFO replaced. -/
def State.setRxFifo (s : State) (q : List Word) : State := { s with rxFifo := q }

/-- `TX_FIFO_DEPTH[n]` (00_scope.md rule R10). -/
def State.txDepth (s : State) (n : Ep) : Nat :=
  match n with
  | .ep0 => s.cfg.txFifoDepth0.toNat
  | .stream => s.cfg.txFifoDepthS.toNat

/-- The two byte arrays of the descriptor store (10_state.md rule R51). -/
def storeOf (c : Config) (src : Src) : List Byte :=
  match src with
  | .dev => c.devDesc
  | .cfg => c.cfgDesc

/-- The descriptor store, the same in every state of a run (10_state.md rule R51, 20_memory.md rule R86). -/
def State.store (s : State) (src : Src) : List Byte := storeOf s.cfg src

/-- The form of the memories: the FIFOs hold no more words than their depth and the descriptors have the lengths of
00_scope.md rule R9. There is no byte-addressed memory (10_state.md rule R48); lists of words are their own canonical
form (log entry 15). -/
def Memory.wf (s : State) : Bool :=
  decide (s.rxFifo.length ≤ s.cfg.rxFifoDepth.toNat) &&
  decide (s.txFifo0.length ≤ s.cfg.txFifoDepth0.toNat) &&
  decide (s.txFifoS.length ≤ s.cfg.txFifoDepthS.toNat) &&
  decide (1 ≤ s.cfg.devDesc.length) && decide (s.cfg.devDesc.length ≤ 65535) &&
  decide (1 ≤ s.cfg.cfgDesc.length) && decide (s.cfg.cfgDesc.length ≤ 65535)

/-- `F_TX_OVERFLOW(n)` added to the fault record (60_exceptions.md rule R286). -/
def FaultRecord.recordOverflow (f : FaultRecord) (n : Ep) : FaultRecord :=
  match n with
  | .ep0 => { f with txOverflow0 := true }
  | .stream => { f with txOverflowS := true }

/-! ## Sequencing -/

/-- Run `k` on what `r` answers; a fault or a refusal ends the sequence. -/
def andThen {α β : Type} (r : Result α) (k : α → Result β) : Result β :=
  match r with
  | .next a => k a
  | .fault f => .fault f
  | .refused q => .refused q

/-! ## Register accesses -/

/-- Append accesses to the access list. -/
def logAll (l : List Access) (s : State) : State := { s with accesses := s.accesses ++ l }

/-- Append one access to the access list. -/
def logAccess (a : Access) (s : State) : State := logAll [a] s

/-- What a register write does, field by field, by the access kinds of 10_state.md rule R35: `rw` fields store,
`w1c` flags clear when 1 is written, `nak` is read-only, `cnak` clears `nak` when 1 is written. -/
def applyWrite (w : RegWrite) (s : State) : State :=
  match w with
  | .gintsts u e => { s with usbrst := s.usbrst && !u, enumdne := s.enumdne && !e }
  | .gintmsk m => { s with gintmsk := m }
  | .rxfsiz d => { s with rxfsiz := d }
  | .txfsiz .ep0 v => { s with txfsiz0 := v }
  | .txfsiz .stream v => { s with txfsizS := v }
  | .devcfg v => { s with devcfg := v }
  | .depmsk m => { s with depmsk := m }
  | .epctl d n v =>
      s.setEp d n { s.ep d n with ctl := ⟨v.mps, (s.ep d n).ctl.nak && !v.cnak, v.stall, v.enabled⟩ }
  | .eptsiz d n v => s.setEp d n { s.ep d n with tsiz := v }
  | .epint d n x => s.setEp d n { s.ep d n with xfrc := (s.ep d n).xfrc && !x }

/-- `RegWrite` (00_scope.md rule R12). -/
def regWrite (w : RegWrite) (s : State) : State := logAccess (.write w) (applyWrite w s)

/-- What a `RegUpdate` of `EPCTL` writes back before fields are replaced: the value read, the command bit 0. -/
def EpCtl.writeBack (r : EpCtl) : EpCtlWrite := ⟨r.mps, r.nak, r.stall, false, r.enabled⟩

/-- `RegUpdate(EPCTL[d][n], …)` (00_scope.md rule R12): a read, then a write of the value read with the named fields
replaced by `f`. -/
def updateEpctl (d : Dir) (n : Ep) (f : EpCtlWrite → EpCtlWrite) (s : State) : State :=
  regWrite (.epctl d n (f (s.ep d n).ctl.writeBack)) (logAccess (.read (.epctl d n)) s)

/-- `RegUpdate(DEVCFG, {addr = a})` (00_scope.md rule R12). -/
def updateAddr (a : BitVec 7) (s : State) : State :=
  regWrite (.devcfg { s.devcfg with addr := a }) (logAccess (.read .devcfg) s)

/-! ## Packet FIFO Access (40_fifo_access.md) -/

/-- `PopRx()` (rule R130): removes and returns the oldest word; on an empty queue `F_RX_UNDERFLOW` is recorded and the
step stops. -/
def popRx (s : State) : Result (Word × State) :=
  match s.rxFifo with
  | [] => .fault (.rxUnderflow { s with faults := { s.faults with rxUnderflow := true } })
  | w :: rest => .next (w, logAccess (.popRx w) (s.setRxFifo rest))

/-- `PushTx(n, w)` (rule R131): appends a word; on a full queue `F_TX_OVERFLOW(n)` is recorded and the step stops.
Full means no fewer words than the depth (log entry 12). -/
def pushTx (n : Ep) (w : Word) (s : State) : Result State :=
  if s.txDepth n ≤ (s.txFifo n).length then
    .fault (.txOverflow n { s with faults := s.faults.recordOverflow n })
  else
    .next (logAccess (.pushTx n w) (s.setTxFifo n (s.txFifo n ++ [w])))

/-- `k` words from the RX FIFO, one `PopRx()` each. -/
def popWords (k : Nat) (s : State) : Result (List Word × State) :=
  match k with
  | 0 => .next ([], s)
  | k + 1 =>
    andThen (popRx s) fun r =>
      andThen (popWords k r.2) fun q => .next (r.1 :: q.1, q.2)

/-- The first `n` bytes of a list of words, lowest lane first; the lanes above are discarded (20_memory.md rules R71, R73). -/
def unpackBytes (n : Nat) (ws : List Word) : List Byte := (ws.flatMap wordBytes).take n

/-- Bytes packed four to a word, the first in bits 7:0, the unused lanes of the last word taken from `lanes`
(20_memory.md rule R70). -/
def packLanes (lanes : Word) : List Byte → List Word
  | [] => []
  | [a] => [leWord a (lanes.extractLsb' 8 8) (lanes.extractLsb' 16 8) (lanes.extractLsb' 24 8)]
  | [a, b] => [leWord a b (lanes.extractLsb' 16 8) (lanes.extractLsb' 24 8)]
  | [a, b, c] => [leWord a b c (lanes.extractLsb' 24 8)]
  | a :: b :: c :: d :: rest => leWord a b c d :: packLanes lanes rest

/-- Bytes packed with the unused lanes zero, as the engine transmits them (20_memory.md rule R72). -/
def packBytes (bs : List Byte) : List Word := packLanes 0 bs

/-- `pop_bytes(n)` (rule R132). -/
def popBytes (n : Nat) (s : State) : Result (List Byte × State) :=
  andThen (popWords (ceil4 n) s) fun r => .next (unpackBytes n r.1, r.2)

/-- Words pushed in order, one `PushTx` each. -/
def pushWords (n : Ep) (ws : List Word) (s : State) : Result State :=
  match ws with
  | [] => .next s
  | w :: rest => andThen (pushTx n w s) fun s1 => pushWords n rest s1

/-- `push_bytes(n, buf, len)` with `len` the length of `buf` (rule R133). -/
def pushBytes (n : Ep) (bs : List Byte) (s : State) : Result State := pushWords n (packBytes bs) s

/-- `drain(n)` (rule R134): the words are discarded. -/
def drain (n : Nat) (s : State) : Result State :=
  andThen (popWords (ceil4 n) s) fun r => .next r.2

/-- `Desc(sel, off) … Desc(sel, off + k - 1)` (00_scope.md rule R12), read in order; a read past the end of the
descriptor stops (log entry 9). -/
def readDesc (src : Src) (off k : Nat) (s : State) : Result (List Byte × State) :=
  match k with
  | 0 => .next ([], s)
  | k + 1 =>
    match (s.store src)[off]? with
    | none => .fault (.descOverrun s)
    | some b =>
      andThen (readDesc src (off + 1) k (logAccess (.desc src off) s)) fun q => .next (b :: q.1, q.2)

/-! ## Endpoint State (41_endpoint_state.md) -/

/-- `mps_of(n)`: 64 for endpoint 0, `STREAM_MPS` for the streaming endpoint. -/
def State.mpsOf (s : State) (n : Ep) : BitVec 11 :=
  match n with
  | .ep0 => ep0Mps
  | .stream => s.cfg.streamMps

/-- The value a full write arms an endpoint direction with: packet size, no stall, clear-NAK, enable. -/
def EpCtlWrite.armed (mps : BitVec 11) : EpCtlWrite := ⟨mps, false, false, true, true⟩

/-- `reset_ep0()` (rule R150). -/
def resetEp0 (s : State) : State :=
  regWrite (.epctl .out .ep0 (EpCtlWrite.armed ep0Mps))
    (regWrite (.eptsiz .out .ep0 ⟨1, ep0Mps.setWidth 19⟩)
      (regWrite (.epctl .inp .ep0 (EpCtlWrite.armed ep0Mps))
        (regWrite (.eptsiz .inp .ep0 ⟨0, 0⟩) s)))

/-- `arm_out(n)` (rule R151). -/
def armOut (n : Ep) (s : State) : State :=
  updateEpctl .out n (fun v => { v with cnak := true, enabled := true })
    (regWrite (.eptsiz .out n ⟨1, (s.mpsOf n).setWidth 19⟩) s)

/-- `arm_in(n, k)` (rule R152). -/
def armIn (n : Ep) (k : Nat) (s : State) : State :=
  updateEpctl .inp n (fun v => { v with cnak := true, enabled := true })
    (regWrite (.eptsiz .inp n ⟨1, BitVec.ofNat 19 k⟩) s)

/-- `enable_streaming(mps)` (rule R154). -/
def enableStreaming (mps : BitVec 11) (s : State) : State :=
  regWrite (.epctl .out .stream (EpCtlWrite.armed mps))
    (regWrite (.eptsiz .out .stream ⟨1, mps.setWidth 19⟩)
      (regWrite (.epctl .inp .stream (EpCtlWrite.armed mps)) s))

/-- `disable_streaming()` (rule R155). -/
def disableStreaming (s : State) : State :=
  updateEpctl .out .stream (fun v => { v with enabled := false })
    (updateEpctl .inp .stream (fun v => { v with enabled := false }) s)

/-- `stall(d, n)` (rule R156), the block's one error signal. -/
def stall (d : Dir) (n : Ep) (s : State) : State :=
  updateEpctl d n (fun v => { v with stall := true }) s

/-! ## Control Transfer Engine (42_control_transfer_engine.md) -/

/-- `decode_setup` and `setup_received()` (43_request_decoder.md rule R200, rule R172): the latch takes the packet, the
old context is dropped, the state is `SetupReceived`. -/
def setupReceived (p : SetupPacket) (s : State) : State :=
  { s with
    setup := p
    ctx := { s.ctx with remaining := 0, zlpPending := false }
    cteState := .setupReceived }

/-- `record F_TX_STALE` (rule R176, 60_exceptions.md rule R286): a sticky mark, the step goes on. -/
def recordStale (s : State) : State := { s with faults := { s.faults with txStale := true } }

/-- The first line of `send_in_packet` (rule R176): a packet with data behind words still in TX FIFO 0 is marked. -/
def markStale (k : Nat) (s : State) : State := if 0 < k ∧ s.txFifo0 ≠ [] then recordStale s else s

/-- `send_in_packet(k, sel, off)` (rule R176). The descriptor bytes are read, then packed and pushed (log entry 13). -/
def sendInPacket (k : Nat) (src : Src) (off : Nat) (s : State) : Result State :=
  andThen (readDesc src off k (armIn .ep0 k (markStale k s))) fun r => pushBytes .ep0 r.1 r.2

/-- `send_in_packet(0, -, -)`: a zero-length packet; `sel` and `off` are not looked at (rule R176). -/
def sendZeroLength (s : State) : Result State := sendInPacket 0 s.ctx.src 0 s

/-- `zlp_wanted()` (rule R177), with `sent` the value of `ctx.offset` after the chunk. -/
def zlpWanted (s : State) (sent : Nat) : Bool :=
  match s.cfg.zlpPolicy with
  | .alwaysOnMultiple => true
  | .onlyIfShortOfWLength => decide (sent < s.setup.length.toNat)

/-- `k` of `send_chunk`: `min(ctx.mps, ctx.remaining)` (rule R175). -/
def Ctx.chunk (x : Ctx) : Nat := min x.mps.toNat x.remaining.toNat

/-- The context update of `send_chunk` after a chunk of `k` bytes (rule R175). -/
def advance (k : Nat) (s : State) : State :=
  let sent := s.ctx.offset.toNat + k
  let left := s.ctx.remaining.toNat - k
  { s with
    ctx := { s.ctx with
      offset := BitVec.ofNat 16 sent
      remaining := BitVec.ofNat 16 left
      zlpPending := s.ctx.zlpPending || (left == 0 && k == s.ctx.mps.toNat && zlpWanted s sent) } }

/-- `send_chunk()` (rule R175). -/
def sendChunk (s : State) : Result State :=
  andThen (sendInPacket s.ctx.chunk s.ctx.src s.ctx.offset.toNat s) fun s1 =>
    .next (advance s.ctx.chunk s1)

/-- `total = min(setup.length, len(sel))` (rule R173). -/
def responseTotal (s : State) (src : Src) : Nat := min s.setup.responseCap (s.store src).length

/-- `start_tx(sel)` (rule R174). -/
def startTx (src : Src) (s : State) : Result State :=
  sendChunk
    { s with
      ctx := ⟨src, 0, BitVec.ofNat 16 (responseTotal s src), ep0Mps, false⟩
      cteState := .txInProgress }

/-- `send_status()` (rule R179). -/
def sendStatus (s : State) : Result State :=
  andThen (sendZeroLength s) fun s1 => .next { s1 with cteState := .statusPending }

/-- `in_complete()` (rule R180). -/
def inComplete (s : State) : Result State :=
  match s.cteState with
  | .txInProgress =>
      if 0 < s.ctx.remaining.toNat then sendChunk s
      else if s.ctx.zlpPending then
        andThen (sendZeroLength s) fun s1 => .next { s1 with ctx := { s1.ctx with zlpPending := false } }
      else .next { s with cteState := .idle }
  | .statusPending => .next { s with cteState := .idle }
  | .idle => .next s
  | .setupReceived => .fault (.completionWhileDecoding s)

/-! ## The error signal and the service step's entry (60_exceptions.md) -/

/-- `stall_ep0_both()` (42_control_transfer_engine.md rule R181). -/
def stallEp0Both (s : State) : State :=
  { stall .out .ep0 (stall .inp .ep0 s) with cteState := .idle }

/-- `stall_ep0_in()` (42_control_transfer_engine.md rule R181). -/
def stallEp0In (s : State) : State := { stall .inp .ep0 s with cteState := .idle }

/-- Entry to the service step (60_exceptions.md rule R292): nothing is saved and nothing switched, the first action is
the one read of `GINTSTS`. The access list starts anew. The return (rule R293) restores nothing and is no operation. -/
def enterService (s : State) : State := { s with accesses := [.read .gintsts] }

end Sys2Proof.Machine
end

