-- ==== Sys2Proof/Machine/Setup.lean ====
section
/-! DEFINITION. The Request Decoder (43_request_decoder.md): the meanings of the nine SETUP events and their
dispatch. The meaning of a SETUP event latches its packet and enters `SetupReceived` (rule R200,
42_control_transfer_engine.md rule R172), then runs the request's handler (log entry 11). -/

namespace Sys2Proof.Machine

/-- GET_DESCRIPTOR_DEVICE (rule R203). -/
def execGetDescriptorDevice (p : SetupPacket) (s : State) : Result State :=
  startTx .dev (setupReceived p s)

/-- GET_DESCRIPTOR_CONFIGURATION (rule R204). -/
def execGetDescriptorConfiguration (p : SetupPacket) (s : State) : Result State :=
  startTx .cfg (setupReceived p s)

/-- GET_DESCRIPTOR_OTHER, exception UNKNOWN_DESCRIPTOR_TYPE (rule R205, 60_exceptions.md rule R283). -/
def execGetDescriptorOther (p : SetupPacket) (s : State) : Result State :=
  .next (stallEp0In (setupReceived p s))

/-- SET_ADDRESS (rule R206): the address is written at once, before the status stage (70_reset_and_hazards.md rule R331). -/
def execSetAddress (p : SetupPacket) (s : State) : Result State :=
  sendStatus (updateAddr p.deviceAddress (setupReceived p s))

/-- SET_CONFIGURATION (rule R207). -/
def execSetConfiguration (p : SetupPacket) (s : State) : Result State :=
  sendStatus (setupReceived p s)

/-- SET_INTERFACE_AS_OFF (rule R209). -/
def execSetInterfaceAsOff (p : SetupPacket) (s : State) : Result State :=
  sendStatus { disableStreaming (setupReceived p s) with streamingEnabled := false }

/-- SET_INTERFACE_AS_ON (rule R210). -/
def execSetInterfaceAsOn (p : SetupPacket) (s : State) : Result State :=
  sendStatus { enableStreaming s.cfg.streamMps (setupReceived p s) with streamingEnabled := true }

/-- SET_INTERFACE_OTHER (rule R211). -/
def execSetInterfaceOther (p : SetupPacket) (s : State) : Result State :=
  sendStatus (setupReceived p s)

/-- UNSUPPORTED_REQUEST, the exception of that name (rule R212, 60_exceptions.md rule R282). -/
def execUnsupportedRequest (p : SetupPacket) (s : State) : Result State :=
  .next (stallEp0Both (setupReceived p s))

/-- `dispatch()` (rule R201), on the packet that is latched by the handler it selects. -/
def dispatchSetup (p : SetupPacket) (s : State) : Result State :=
  if !p.typeAllowed s.cfg then execUnsupportedRequest p s
  else if p.request = reqGetDescriptor then
    if p.descriptorType = dtDevice then execGetDescriptorDevice p s
    else if p.descriptorType = dtConfiguration then execGetDescriptorConfiguration p s
    else execGetDescriptorOther p s
  else if p.request = reqSetAddress then execSetAddress p s
  else if p.request = reqSetConfiguration then execSetConfiguration p s
  else if p.request = reqSetInterface then
    if !p.recipientAllowed s.cfg then execUnsupportedRequest p s
    else if p.interfaceNumber = asInterface ∧ p.alternateSetting = 0 then execSetInterfaceAsOff p s
    else if p.interfaceNumber = asInterface ∧ p.alternateSetting = s.cfg.asAltActive then
      execSetInterfaceAsOn p s
    else execSetInterfaceOther p s
  else execUnsupportedRequest p s

end Sys2Proof.Machine
end

