-- ==== Sys2Proof/Machine/Receive.lean ====
section
/-! DEFINITION. The receive handler's branches (44_interrupt_dispatcher.md rules R236 to R239): the meanings of the
four RX status words. When one runs, its status word has already left the RX FIFO (rule R233). -/

namespace Sys2Proof.Machine

/-- The packet of the bytes `pop_bytes(8)` returned (43_request_decoder.md rule R200). The list has eight bytes
whenever `popBytes` answers (log entry 23). -/
def SetupPacket.ofByteList (b : List Byte) : SetupPacket :=
  SetupPacket.ofBytes (b.getD 0 0) (b.getD 1 0) (b.getD 2 0) (b.getD 3 0)
    (b.getD 4 0) (b.getD 5 0) (b.getD 6 0) (b.getD 7 0)

/-- SETUP_RX (rule R236): exactly two data words, whatever `bcnt` and `epnum` say (decision D18). -/
def execSetupRx (_st : RxStatus) (s : State) : Result State :=
  andThen (popBytes 8 s) fun r => dispatchSetup (SetupPacket.ofByteList r.1) r.2

/-- SETUP_DONE (rule R237). -/
def execSetupDone (_st : RxStatus) (s : State) : Result State := .next (armOut .ep0 s)

/-- OUT_RX (rule R238): the data is drained, then the endpoint it came in on is armed again, the streaming endpoint
only while streaming is on. -/
def execOutRx (st : RxStatus) (s : State) : Result State :=
  andThen (drain st.bcnt.toNat s) fun s1 =>
    if st.epnum = 0 then .next (armOut .ep0 s1)
    else if st.epnum = s1.cfg.epStream ∧ s1.streamingEnabled = true then .next (armOut .stream s1)
    else .next s1

/-- PKTSTS_OTHER (rule R239): nothing after the pop of the status word. -/
def execPktstsOther (_st : RxStatus) (s : State) : Result State := .next s

/-- The branch on `st.pktsts` of `on_rx_nonempty` (rule R233). -/
def dispatchReceive (st : RxStatus) (s : State) : Result State :=
  if st.pktsts = s.cfg.pktstsSetupRx then execSetupRx st s
  else if st.pktsts = s.cfg.pktstsSetupDone then execSetupDone st s
  else if st.pktsts = s.cfg.pktstsOutRx then execOutRx st s
  else execPktstsOther st s

end Sys2Proof.Machine
end

