-- ==== Sys2Proof/Machine/Interrupt.lean ====
section
/-! DEFINITION. The Interrupt Dispatcher's handlers (44_interrupt_dispatcher.md): the meanings of the four
interrupt-status bits. -/

namespace Sys2Proof.Machine

/-- USBRST, `on_bus_reset()` (rule R232): the acknowledge comes last. -/
def execUsbrst (s : State) : Result State :=
  let s1 := disableStreaming (resetEp0 (updateAddr 0 s))
  .next (regWrite (.gintsts true false)
    { s1 with
      streamingEnabled := false
      cteState := .idle
      ctx := { s1.ctx with remaining := 0, zlpPending := false } })

/-- RXFLVL, `on_rx_nonempty()` (rule R233): one entry of the RX FIFO (rule R234). -/
def execRxflvl (s : State) : Result State :=
  andThen (popRx s) fun r => dispatchReceive (RxStatus.ofWord s.cfg.regmap r.1) r.2

/-- ENUMDNE, `on_enum_done()` (rule R241). -/
def execEnumdne (s : State) : Result State := .next (regWrite (.gintsts false true) s)

/-- The endpoint 0 half of `on_in_endpoint()` (rule R242): acknowledge first, then continue the transfer. -/
def scanIn0 (s : State) : Result State :=
  let s1 := logAccess (.read (.epint .inp .ep0)) s
  if s1.epIn0.xfrc then inComplete (regWrite (.epint .inp .ep0 true) s1) else .next s1

/-- The streaming half of `on_in_endpoint()` (rule R242): acknowledge only. -/
def scanInStream (s : State) : State :=
  let s1 := logAccess (.read (.epint .inp .stream)) s
  if s1.epInS.xfrc then regWrite (.epint .inp .stream true) s1 else s1

/-- IEPINT, `on_in_endpoint()` (rule R242). -/
def execIepint (s : State) : Result State :=
  andThen (scanIn0 s) fun s1 => .next (scanInStream s1)

end Sys2Proof.Machine
end

