-- ==== Sys2Proof/Machine/Dispatch.lean ====
section
/-! DEFINITION. One arm per event (opcode_table.json), each a direct call of the event's meaning. -/

namespace Sys2Proof.Machine

def exec (i : Instr) (s : State) : Host.Outcome State Fault Refusal :=
  match i with
  | .usbrst => Sys2Proof.Machine.execUsbrst s
  | .rxflvl => Sys2Proof.Machine.execRxflvl s
  | .enumdne => Sys2Proof.Machine.execEnumdne s
  | .iepint => Sys2Proof.Machine.execIepint s
  | .setupRx st => Sys2Proof.Machine.execSetupRx st s
  | .setupDone st => Sys2Proof.Machine.execSetupDone st s
  | .outRx st => Sys2Proof.Machine.execOutRx st s
  | .pktstsOther st => Sys2Proof.Machine.execPktstsOther st s
  | .getDescriptorDevice p => Sys2Proof.Machine.execGetDescriptorDevice p s
  | .getDescriptorConfiguration p => Sys2Proof.Machine.execGetDescriptorConfiguration p s
  | .getDescriptorOther p => Sys2Proof.Machine.execGetDescriptorOther p s
  | .setAddress p => Sys2Proof.Machine.execSetAddress p s
  | .setConfiguration p => Sys2Proof.Machine.execSetConfiguration p s
  | .setInterfaceAsOff p => Sys2Proof.Machine.execSetInterfaceAsOff p s
  | .setInterfaceAsOn p => Sys2Proof.Machine.execSetInterfaceAsOn p s
  | .setInterfaceOther p => Sys2Proof.Machine.execSetInterfaceOther p s
  | .unsupportedRequest p => Sys2Proof.Machine.execUnsupportedRequest p s

end Sys2Proof.Machine
end

