-- ==== Sys2Proof/Machine/Environment.lean ====
section
/-! DEFINITION. The other agent, the USB peripheral and the host together (45_environment.md), as the steps it can
take on the shared registers and FIFOs. A step whose precondition fails does not happen: the state stays as it is.
The values a rule leaves free (`dpid`, `frmnum`, reserved bits, unused lanes) come with the step (log entry 7). -/

namespace Sys2Proof.Machine

/-- Add an event to the wire trace (rule R260). -/
def record (e : WireEvent) (s : State) : State := { s with wire := s.wire ++ [e] }

/-- The RX FIFO has room for `k` more words. -/
def rxRoom (s : State) (k : Nat) : Bool := decide (s.rxFifo.length + k ≤ s.cfg.rxFifoDepth.toNat)

/-- Append words to the RX FIFO. -/
def appendRx (ws : List Word) (s : State) : State := { s with rxFifo := s.rxFifo ++ ws }

/-- The status word `RXSTS{epnum, bcnt, pktsts, dpid = any, frmnum = any}` of an entry. -/
def rxStatusWord (m : RegMap) (epnum : BitVec 4) (bcnt : Nat) (pktsts : BitVec 4) (x : AnyBits) : Word :=
  RxStatus.toWord m ⟨epnum, BitVec.ofNat 11 bcnt, x.dpid, pktsts, x.frmnum, x.reserved⟩

/-- The number of an endpoint on the wire and in status words (00_scope.md rule R10). -/
def State.epNumber (s : State) (n : Ep) : BitVec 4 :=
  match n with
  | .ep0 => 0
  | .stream => s.cfg.epStream

/-- `E_BUSRESET` (rule R261). -/
def envBusReset (s : State) : State := record .reset { s with usbrst := true }

/-- `E_ENUMDONE` (rule R262). -/
def envEnumDone (s : State) : State := { s with enumdne := true }

/-- `E_SETUP(b)` (rule R263): a SETUP packet is accepted whatever `nak` and `stall` hold. -/
def envSetup (p : SetupPacket) (x : AnyBits) (s : State) : State :=
  if s.epOut0.ctl.enabled && rxRoom s 3 then
    record (.setup p)
      (appendRx [rxStatusWord s.cfg.regmap 0 8 s.cfg.pktstsSetupRx x, p.word0, p.word1]
        { s with
          epIn0 := { s.epIn0 with ctl := { s.epIn0.ctl with stall := false, nak := true } }
          epOut0 := { s.epOut0 with ctl := { s.epOut0.ctl with stall := false, nak := true } }
          setupDoneOwed := true })
  else s

/-- `E_SETUPDONE` (rule R264). -/
def envSetupDone (x : AnyBits) (s : State) : State :=
  if s.setupDoneOwed && rxRoom s 1 then
    appendRx [rxStatusWord s.cfg.regmap 0 0 s.cfg.pktstsSetupDone x] { s with setupDoneOwed := false }
  else s

/-- The endpoint has no packet to answer an IN token with (rule R265). -/
def inNotReady (s : State) (n : Ep) : Bool :=
  !(s.ep .inp n).ctl.enabled || (s.ep .inp n).ctl.nak || (s.ep .inp n).tsiz.pktcnt == 0 ||
    decide ((s.txFifo n).length < ceil4 (s.ep .inp n).tsiz.xfrsiz.toNat)

/-- `E_IN(n)` (rule R265). -/
def envIn (n : Ep) (s : State) : State :=
  let r := s.ep .inp n
  let size := r.tsiz.xfrsiz.toNat
  if r.ctl.stall then record (.inStall n) s
  else if inNotReady s n then record (.inNak n) s
  else
    record (.inData n (unpackBytes size ((s.txFifo n).take (ceil4 size))))
      ((s.setTxFifo n ((s.txFifo n).drop (ceil4 size))).setEp .inp n
        { ctl := { r.ctl with nak := true }, tsiz := ⟨0, 0⟩, xfrc := true })

/-- The endpoint cannot take an OUT packet of `len` bytes (rule R266). -/
def outNotReady (s : State) (n : Ep) (len : Nat) : Bool :=
  !(s.ep .out n).ctl.enabled || (s.ep .out n).ctl.nak || (s.ep .out n).tsiz.pktcnt == 0 ||
    decide ((s.ep .out n).tsiz.xfrsiz.toNat < len) || !rxRoom s (1 + ceil4 len)

/-- `E_OUT(n, bytes)` (rule R266). -/
def envOut (n : Ep) (bytes : List Byte) (x : AnyBits) (s : State) : State :=
  let r := s.ep .out n
  if r.ctl.stall then record (.outStall n) s
  else if outNotReady s n bytes.length then record (.outNak n) s
  else
    record (.outAck n bytes)
      ((appendRx (rxStatusWord s.cfg.regmap (s.epNumber n) bytes.length s.cfg.pktstsOutRx x :: packLanes x.lanes bytes) s).setEp
        .out n { r with ctl := { r.ctl with nak := true }, tsiz := ⟨0, 0⟩ })

/-- `E_OTHER(code, ep)` (rule R267): only for a code the engine has no branch for, with `bcnt` = 0. -/
def envOther (code epnum : BitVec 4) (x : AnyBits) (s : State) : State :=
  if code != s.cfg.pktstsSetupRx && code != s.cfg.pktstsSetupDone && code != s.cfg.pktstsOutRx && rxRoom s 1 then
    appendRx [rxStatusWord s.cfg.regmap epnum 0 code x] s
  else s

/-- One step of the environment. -/
def envStep (e : EnvStep) (s : State) : State :=
  match e with
  | .busReset => envBusReset s
  | .enumDone => envEnumDone s
  | .setup p x => envSetup p x s
  | .setupDone x => envSetupDone x s
  | .inToken n => envIn n s
  | .outPacket n bytes x => envOut n bytes x s
  | .other code epnum x => envOther code epnum x s

/-! ## Stimulus lines (30_encoding.md rules R113, R114) -/

/-- `SETUP{b0 … b7}`: rule R263, then rule R264, back to back. -/
def lineSetup (p : SetupPacket) (x y : AnyBits) : List Move := [.env (.setup p x), .env (.setupDone y)]

/-- `STATUS_OUT`: the host's zero-length status packet. -/
def lineStatusOut (x : AnyBits) : List Move := [.env (.outPacket .ep0 [] x)]

/-- `STATUS_IN`: the IN token that takes the device's zero-length status packet. -/
def lineStatusIn : List Move := [.env (.inToken .ep0)]

/-- The packet of `SETUP{GET_DESCRIPTOR, type=T, wLength=L}`. -/
def packetGetDescriptor (type : Byte) (len : Half) : SetupPacket := ⟨0x80, reqGetDescriptor, type ++ (0 : Byte), 0, len⟩

/-- The packet of `SET_ADDRESS(A)`. -/
def packetSetAddress (a : Half) : SetupPacket := ⟨0x00, reqSetAddress, a, 0, 0⟩

/-- The packet of `SET_CONFIGURATION(C)`. -/
def packetSetConfiguration (v : Half) : SetupPacket := ⟨0x00, reqSetConfiguration, v, 0, 0⟩

/-- The packet of `SET_INTERFACE(interface=I, alt=A)`. -/
def packetSetInterface (i a : Half) : SetupPacket := ⟨0x01, reqSetInterface, a, i, 0⟩

end Sys2Proof.Machine
end

