-- ==== Sys2Proof/Machine/Fetch.lean ====
section
/-! DEFINITION. Where events are fetched from (20_memory.md rule R90): the interrupt flags and the head of the RX FIFO.
These operations place one event there, so that the next service step takes exactly it (log entry 14). -/

namespace Sys2Proof.Machine

/-- No event pending: every flag clear, the RX FIFO empty. -/
def clearEvents (s : State) : State :=
  { s with
    usbrst := false
    enumdne := false
    rxFifo := []
    epIn0 := { s.epIn0 with xfrc := false }
    epInS := { s.epInS with xfrc := false } }

/-- The data words that follow a status word when the engine takes its entry, all zero (30_encoding.md rule R112). -/
def zeroData (c : Config) (w : Word) : List Word :=
  let st := RxStatus.ofWord c.regmap w
  if st.pktsts = c.pktstsSetupRx then [0, 0]
  else if st.pktsts = c.pktstsSetupDone then []
  else if st.pktsts = c.pktstsOutRx then List.replicate (ceil4 st.bcnt.toNat) 0
  else []

/-- The flags of a `GINTSTS` word of the opcode table, which has the default layout, raised, each by its own cause: a
level needs its condition (10_state.md rule R35). The
cause of `rxflvl` is a status word of no named code, of `iepint` a completion of endpoint 0. -/
def placeFlags (g : Word) (s : State) : State :=
  { s with
    usbrst := g.getLsbD RegMap.default.usbrst
    enumdne := g.getLsbD RegMap.default.enumdne
    rxFifo := if g.getLsbD RegMap.default.rxflvl then [0] else []
    epIn0 := { s.epIn0 with xfrc := g.getLsbD RegMap.default.iepint } }

/-- The status word a SETUP entry of endpoint 0 begins with (45_environment.md rule R263). -/
def setupStatusWord (c : Config) : Word := RxStatus.toWord c.regmap ⟨0, 8, 0, c.pktstsSetupRx, 0, 0⟩

/-- The event of a bare table word placed as the only one pending, every source unmasked, the engine first to move. -/
def placeEvent (nbits w : Nat) (s : State) : State :=
  let s1 := { clearEvents s with
    gintmsk := ⟨true, true, true, true⟩
    depmsk := true
    schedule := Move.service :: s.schedule }
  match tableFormat nbits w with
  | .gintsts => placeFlags (tableWord0 nbits w) s1
  | .rxsts => { s1 with rxFifo := tableWord0 nbits w :: zeroData s.cfg (tableWord0 nbits w) }
  | .setup => { s1 with rxFifo := [setupStatusWord s.cfg, tableWord0 nbits w, tableWord1 nbits w] }

end Sys2Proof.Machine
end

