-- ==== Sys2Proof/Machine/Step.lean ====
section
/-! DEFINITION. One step of the machine. The two agents are the engine and the environment (00_scope.md rule R15); the
schedule says which moves, and with no move left the engine serves its interrupt line or idles. The engine's step is
the service step (44_interrupt_dispatcher.md rule R230): one read of `GINTSTS`, then every event of that snapshot in
the fixed order. -/

namespace Sys2Proof.Machine

/-- Run a list of events in order, each by `exec`; a fault or a refusal ends the step. -/
def runEvents (is : List Instr) (s : State) : Result State :=
  match is with
  | [] => .next s
  | i :: rest => andThen (exec i s) fun s1 => runEvents rest s1

/-- `service()` (44_interrupt_dispatcher.md rules R230, R231): the tests use the snapshot, not the live register. -/
def service (s : State) : Result State := runEvents (gintstsEvents s.cfg.regmap s.gintsts) (enterService s)

/-- One step. A service move is enabled only while the interrupt line is high (60_exceptions.md rule R288); a move that
is not enabled is dropped. With an empty schedule and a low line the machine is quiescent and stays as it is
(70_reset_and_hazards.md rule R338; log entries 4, 22). -/
def step (s : State) : Host.Outcome State Fault Refusal :=
  match s.schedule with
  | [] => if s.irq then service s else .next s
  | .env e :: rest => .next (envStep e { s with schedule := rest })
  | .service :: rest => if s.irq then service { s with schedule := rest } else .next { s with schedule := rest }
  | .serviceAll :: rest => if s.irq then service s else .next { s with schedule := rest }

/-- `s` with the event of a bare table word where the next step takes its events from, and the engine as the next
agent to move (log entry 14). -/
def State.withFetchWord (s : State) (nbits w : Nat) : State := placeEvent nbits w s

end Sys2Proof.Machine
end

