-- ==== Sys2Proof/Machine/Registers.lean ====
section
/-! DEFINITION. The 32-bit view of the register interface: the word a read returns and the word a write puts on the
port, in a layout `REGMAP` (10_state.md rules R34, R37 to R45), and a write given as a word. -/

namespace Sys2Proof.Machine

/-- The number of a state of `cte_state`, not observable (10_state.md rule R28, decision D31). -/
def CteState.code : CteState → BitVec 2
  | .idle => 0
  | .setupReceived => 1
  | .txInProgress => 2
  | .statusPending => 3

/-- The word of `DEVCFG` (10_state.md rule R41). -/
def DevCfg.toWord (m : RegMap) (v : DevCfg) : Word := fieldAt m.speed v.speed ||| fieldAt m.addr v.addr

/-- The word of `TXFSIZ[n]` (10_state.md rule R40). -/
def TxFSiz.toWord (m : RegMap) (v : TxFSiz) : Word := fieldAt m.txStart v.start ||| fieldAt m.txDepth v.depth

/-- The word of `EPTSIZ[d][n]` (10_state.md rule R44). -/
def EpTsiz.toWord (m : RegMap) (v : EpTsiz) : Word := fieldAt m.xfrsiz v.xfrsiz ||| fieldAt m.pktcnt v.pktcnt

/-- The word written to `EPCTL[d][n]` (10_state.md rule R43). -/
def EpCtlWrite.toWord (m : RegMap) (v : EpCtlWrite) : Word :=
  fieldAt m.mps v.mps ||| bitAt m.nak v.nak ||| bitAt m.stall v.stall ||| bitAt m.cnak v.cnak |||
    bitAt m.enabled v.enabled

/-- The word `EPCTL[d][n]` reads as: a command bit reads as 0 (10_state.md rule R35). -/
def EpCtl.toWord (m : RegMap) (v : EpCtl) : Word := v.writeBack.toWord m

/-- The word a register write puts on the port, fields not named 0 (00_scope.md rule R12). -/
def RegWrite.toWord (m : RegMap) : RegWrite → Word
  | .gintsts u e => bitAt m.usbrst u ||| bitAt m.enumdne e
  | .gintmsk k => k.toWord m
  | .rxfsiz d => fieldAt m.rxDepth d
  | .txfsiz _ v => v.toWord m
  | .devcfg v => v.toWord m
  | .depmsk b => bitAt m.xfrcMask b
  | .epctl _ _ v => v.toWord m
  | .eptsiz _ _ v => v.toWord m
  | .epint _ _ x => bitAt m.xfrc x

/-- The register a write goes to. -/
def RegWrite.name : RegWrite → RegName
  | .gintsts _ _ => .gintsts
  | .gintmsk _ => .gintmsk
  | .rxfsiz _ => .rxfsiz
  | .txfsiz n _ => .txfsiz n
  | .devcfg _ => .devcfg
  | .depmsk _ => .depmsk
  | .epctl d n _ => .epctl d n
  | .eptsiz d n _ => .eptsiz d n
  | .epint d n _ => .epint d n

/-- The fields of a word written to a register; reserved bits and level flags are ignored (10_state.md rules R34, R35). -/
def RegWrite.ofWord (m : RegMap) (r : RegName) (w : Word) : RegWrite :=
  match r with
  | .gintsts => .gintsts (w.getLsbD m.usbrst) (w.getLsbD m.enumdne)
  | .gintmsk =>
      .gintmsk ⟨w.getLsbD m.rxflvl, w.getLsbD m.usbrst, w.getLsbD m.enumdne, w.getLsbD m.iepint⟩
  | .rxfsiz => .rxfsiz (w.extractLsb' m.rxDepth 16)
  | .txfsiz n => .txfsiz n ⟨w.extractLsb' m.txStart 16, w.extractLsb' m.txDepth 16⟩
  | .devcfg => .devcfg ⟨w.extractLsb' m.speed 2, w.extractLsb' m.addr 7⟩
  | .depmsk => .depmsk (w.getLsbD m.xfrcMask)
  | .epctl d n =>
      .epctl d n
        ⟨w.extractLsb' m.mps 11, w.getLsbD m.nak, w.getLsbD m.stall, w.getLsbD m.cnak, w.getLsbD m.enabled⟩
  | .eptsiz d n => .eptsiz d n ⟨w.extractLsb' m.pktcnt 10, w.extractLsb' m.xfrsiz 19⟩
  | .epint d n => .epint d n (w.getLsbD m.xfrc)

/-- The word a register reads as; the reserved bits of registers other than `GINTSTS`, which no rule looks at, are
shown as 0 (log entry 17). -/
def State.regWord (s : State) : RegName → Word
  | .gintsts => s.gintsts
  | .gintmsk => s.gintmsk.toWord s.cfg.regmap
  | .rxfsiz => fieldAt s.cfg.regmap.rxDepth s.rxfsiz
  | .txfsiz .ep0 => s.txfsiz0.toWord s.cfg.regmap
  | .txfsiz .stream => s.txfsizS.toWord s.cfg.regmap
  | .devcfg => s.devcfg.toWord s.cfg.regmap
  | .depmsk => bitAt s.cfg.regmap.xfrcMask s.depmsk
  | .epctl d n => (s.ep d n).ctl.toWord s.cfg.regmap
  | .eptsiz d n => (s.ep d n).tsiz.toWord s.cfg.regmap
  | .epint d n => bitAt s.cfg.regmap.xfrc (s.ep d n).xfrc

/-- A register write given as the 32-bit word on the port. -/
def regWriteWord (r : RegName) (w : Word) (s : State) : State := regWrite (RegWrite.ofWord s.cfg.regmap r w) s

end Sys2Proof.Machine
end

