-- ==== Sys2Proof/Safety.lean ====
section
/-! DEFINITION. What counts as a safe run and the invariants of the machine, in the terms claims use: the fault
record empty (60_exceptions.md rule R286), the invariants of 10_state.md rule R32, the entries of the RX FIFO whole
(20_memory.md rule R77), the quiescent state that ends a run (70_reset_and_hazards.md rule R338), and the words the
statements are written in. -/

namespace Sys2Proof.Machine

/-- The fault record is empty, the premise a claim about the wire carries (60_exceptions.md rule R286). -/
abbrev State.noFault (s : State) : Prop := s.faults = FaultRecord.empty

/-- `cte_state` is never `SetupReceived` between steps (10_state.md rule R32 item 5). -/
abbrev State.notDecoding (s : State) : Prop := s.cteState ≠ .setupReceived

/-- Streaming is on exactly while both streaming directions are enabled (10_state.md rule R32 item 4). -/
abbrev State.streamingAgrees (s : State) : Prop :=
  s.epInS.ctl.enabled = s.streamingEnabled ∧ s.epOutS.ctl.enabled = s.streamingEnabled

/-- Outside a transfer nothing is left to send (10_state.md rule R32 item 6). -/
abbrev State.contextEmpty (s : State) : Prop :=
  s.cteState ≠ .txInProgress → s.ctx.remaining = 0 ∧ s.ctx.zlpPending = false

/-- In a transfer the bytes sent and the bytes left make up the response, the position is a multiple of 64 or the end,
and a zero-length packet is owed only at the end (10_state.md rule R32 item 7, 42_control_transfer_engine.md rule R186). -/
abbrev State.transferCoherent (s : State) : Prop :=
  s.cteState = .txInProgress →
    s.ctx.offset.toNat + s.ctx.remaining.toNat = responseTotal s s.ctx.src ∧
    (s.ctx.offset.toNat % 64 = 0 ∨ s.ctx.offset.toNat = responseTotal s s.ctx.src) ∧
    (s.ctx.zlpPending = true → s.ctx.remaining = 0)

/-- An OUT endpoint is never offered more room than a status word can count (30_encoding.md rule R103). -/
abbrev State.outRoomCountable (s : State) : Prop :=
  s.epOut0.tsiz.xfrsiz.toNat ≤ 2047 ∧ s.epOutS.tsiz.xfrsiz.toNat ≤ 2047

/-- The invariant of the machine between steps. -/
structure State.Inv (s : State) : Prop where
  memory : Memory.wf s = true
  notDecoding : s.notDecoding
  streaming : s.streamingAgrees
  chunk : s.ctx.mps = ep0Mps
  context : s.contextEmpty
  transfer : s.transferCoherent
  outRoom : s.outRoomCountable

/-- How many data words the receive handler removes behind a status word (30_encoding.md rule R112). -/
def entryData (c : Config) (w : Word) : Nat :=
  let st := RxStatus.ofWord c.regmap w
  if st.pktsts = c.pktstsSetupRx then 2
  else if st.pktsts = c.pktstsSetupDone then 0
  else if st.pktsts = c.pktstsOutRx then ceil4 st.bcnt.toNat
  else 0

/-- The words, after `owed` data words of an entry begun, are whole entries. -/
def wholeEntries (c : Config) : (owed : Nat) → List Word → Bool
  | 0, [] => true
  | _ + 1, [] => false
  | 0, w :: rest => wholeEntries c (entryData c w) rest
  | owed + 1, _ :: rest => wholeEntries c owed rest

/-- The RX FIFO holds whole entries, so its head is a status word (20_memory.md rule R77). -/
abbrev State.rxAligned (s : State) : Prop := wholeEntries s.cfg 0 s.rxFifo = true

/-- Endpoint 0 holds the packet size 64 in both directions (10_state.md rule R32 item 2). -/
abbrev State.ep0Sized (s : State) : Prop := s.epIn0.ctl.mps = ep0Mps ∧ s.epOut0.ctl.mps = ep0Mps

/-- The fields no step of either agent changes (00_scope.md rule R15, 60_exceptions.md rule R289, 10_state.md rules R36,
R39, R40, R41). That the reserved bits of `GINTSTS` are among them is the model's choice (DESIGN CHOICE, log entry 17). -/
structure State.SameFixed (s t : State) : Prop where
  cfg : t.cfg = s.cfg
  gctl : t.gctl = s.gctl
  gintReserved : t.gintReserved = s.gintReserved
  gintmsk : t.gintmsk = s.gintmsk
  rxfsiz : t.rxfsiz = s.rxfsiz
  txfsiz0 : t.txfsiz0 = s.txfsiz0
  txfsizS : t.txfsizS = s.txfsizS
  speed : t.devcfg.speed = s.devcfg.speed
  depmsk : t.depmsk = s.depmsk

/-- The block is quiescent and no move is left: the end of a run (70_reset_and_hazards.md rule R338). -/
abbrev State.quiescent (s : State) : Prop := s.irq = false ∧ s.schedule = []

/-- The packets of a response of `bs` (42_control_transfer_engine.md rules R177, R178, R185): 64 bytes each and the last one
shorter, possibly empty; under `only_if_short_of_wLength` the empty last packet of a response as long as the host asked
for (`cap`) is left out. -/
def responsePackets (policy : ZlpPolicy) (cap : Nat) (bs : List Byte) : List (List Byte) :=
  let n := bs.length / 64
  let packets := (List.range (n + 1)).map fun i => (bs.drop (64 * i)).take 64
  match policy with
  | .alwaysOnMultiple => packets
  | .onlyIfShortOfWLength =>
      if 0 < bs.length ∧ bs.length % 64 = 0 ∧ bs.length = cap then packets.take n else packets

/-- The host takes `n` packets from endpoint 0, the engine serving after each. -/
def hostTakes (n : Nat) : List Move := (List.replicate n [Move.env (.inToken .ep0), Move.service]).flatten

/-- No event is pending, endpoint 0 IN is not stalled and its TX FIFO is empty, and IN completions reach the interrupt
line: where a well-behaved control transfer starts. -/
structure State.Quiet (s : State) : Prop where
  usbrst : s.usbrst = false
  enumdne : s.enumdne = false
  rxFifo : s.rxFifo = []
  txFifo0 : s.txFifo0 = []
  xfrc0 : s.epIn0.xfrc = false
  xfrcS : s.epInS.xfrc = false
  stall : s.epIn0.ctl.stall = false
  depmsk : s.depmsk = true
  iepintMask : s.gintmsk.iepint = true

/-- The next step is a service step: the line is high and no environment move comes first (00_scope.md rule R15; schedule:
log entry 4). -/
def State.serves (s : State) : Bool :=
  match s.schedule with
  | .env _ :: _ => false
  | [] | .service :: _ | .serviceAll :: _ => s.irq

/-- The next step is a service step whose snapshot has the event. -/
abbrev State.handles (s : State) (i : Instr) : Prop := s.serves = true ∧ i ∈ gintstsEvents s.cfg.regmap s.gintsts

/-! ## Words for statements: what the rules' pseudocode leaves and which accesses it makes -/

/-- An endpoint direction armed for one packet of `k` bytes: packet size and stall kept, NAK cleared, enabled
(41_endpoint_state.md rules R151, R152). -/
def EpRegs.armed (r : EpRegs) (k : BitVec 19) : EpRegs :=
  ⟨{ r.ctl with nak := false, enabled := true }, ⟨1, k⟩, r.xfrc⟩

/-- The accesses of arming it, in order (41_endpoint_state.md rules R151, R152). -/
def armAccesses (d : Dir) (n : Ep) (r : EpRegs) (k : BitVec 19) : List Access :=
  [.write (.eptsiz d n ⟨1, k⟩),
   .read (.epctl d n),
   .write (.epctl d n ⟨r.ctl.mps, r.ctl.nak, r.ctl.stall, true, true⟩)]

/-- An endpoint direction with its stall flag set, all else kept (41_endpoint_state.md rule R156). -/
def EpRegs.stalled (r : EpRegs) : EpRegs := { r with ctl := { r.ctl with stall := true } }

/-- The accesses of stalling it. -/
def stallAccesses (d : Dir) (r : EpRegs) : List Access :=
  [.read (.epctl d .ep0), .write (.epctl d .ep0 ⟨r.ctl.mps, r.ctl.nak, true, false, r.ctl.enabled⟩)]

/-- An endpoint direction with its enable cleared, all else kept (41_endpoint_state.md rule R155). -/
def EpRegs.disabled (r : EpRegs) : EpRegs := { r with ctl := { r.ctl with enabled := false } }

/-- The accesses of disabling the streaming pair (41_endpoint_state.md rule R155). -/
def disableAccesses (i o : EpRegs) : List Access :=
  [.read (.epctl .inp .stream),
   .write (.epctl .inp .stream ⟨i.ctl.mps, i.ctl.nak, i.ctl.stall, false, false⟩),
   .read (.epctl .out .stream),
   .write (.epctl .out .stream ⟨o.ctl.mps, o.ctl.nak, o.ctl.stall, false, false⟩)]

/-- An endpoint direction with its completion flag acknowledged (44_interrupt_dispatcher.md rule R242). -/
def EpRegs.acknowledged (r : EpRegs) : EpRegs := { r with xfrc := false }

/-- The context with nothing left to send (42_control_transfer_engine.md rule R172). -/
def Ctx.dropped (x : Ctx) : Ctx := { x with remaining := 0, zlpPending := false }

/-- The mark a packet of `k` bytes leaves when words are already in TX FIFO 0 (42_control_transfer_engine.md rule R176). -/
def staleFaults (f : FaultRecord) (k : Nat) (queue : List Word) : FaultRecord :=
  if 0 < k ∧ queue ≠ [] then { f with txStale := true } else f

/-- The accesses of `send_in_packet` with the bytes `bs` of a descriptor from `off` on (42_control_transfer_engine.md
rule R176; the descriptor reads before the pushes, log entry 13). -/
def packetAccesses (r : EpRegs) (src : Src) (off : Nat) (bs : List Byte) : List Access :=
  armAccesses .inp .ep0 r (BitVec.ofNat 19 bs.length) ++
    (List.range bs.length).map (fun i => Access.desc src (off + i)) ++
    (packBytes bs).map (Access.pushTx .ep0)

/-- The accesses of the streaming half of `on_in_endpoint` (44_interrupt_dispatcher.md rule R242). -/
def streamScanAccesses (r : EpRegs) : List Access :=
  .read (.epint .inp .stream) :: (if r.xfrc then [.write (.epint .inp .stream true)] else [])

/-- `zlp_wanted` for `sent` bytes of a response the host capped at `cap` (42_control_transfer_engine.md rule R177). -/
def zlpWantedFor (policy : ZlpPolicy) (sent cap : Nat) : Bool :=
  match policy with
  | .alwaysOnMultiple => true
  | .onlyIfShortOfWLength => decide (sent < cap)

/-- The first chunk of a response of `total` bytes (42_control_transfer_engine.md rules R174, R175). -/
def firstChunk (total : Nat) : Nat := min 64 total

/-- The state in which a GET_DESCRIPTOR of descriptor `src` leaves the machine: the first packet armed and pushed, the
context set to what follows (42_control_transfer_engine.md rules R173 to R177). -/
def responseStarted (src : Src) (p : SetupPacket) (s : State) : State :=
  let total := min p.length.toNat (s.store src).length
  let k := firstChunk total
  { s with
    setup := p
    ctx := ⟨src, BitVec.ofNat 16 k, BitVec.ofNat 16 (total - k), 64,
      decide (total = 64) && zlpWantedFor s.cfg.zlpPolicy total p.length.toNat⟩
    cteState := .txInProgress
    epIn0 := s.epIn0.armed (BitVec.ofNat 19 k)
    txFifo0 := s.txFifo0 ++ packBytes ((s.store src).take k)
    faults := staleFaults s.faults k s.txFifo0
    accesses := s.accesses ++ packetAccesses s.epIn0 src 0 ((s.store src).take k) }

/-- The transition table of `cte_state` (42_control_transfer_engine.md rule R171, rows 1 to 4) for a SETUP packet. -/
def cteAfterSetup (c : Config) (p : SetupPacket) : CteState :=
  match decodeSetup c p with
  | .getDescriptorDevice _ | .getDescriptorConfiguration _ => .txInProgress
  | .setAddress _ | .setConfiguration _
  | .setInterfaceAsOff _ | .setInterfaceAsOn _ | .setInterfaceOther _ => .statusPending
  | _ => .idle

/-- Rows 5 to 8 and 10: an endpoint 0 IN completion. -/
def cteAfterComplete (st : CteState) (x : Ctx) : CteState :=
  match st with
  | .txInProgress => if x.remaining = 0 ∧ x.zlpPending = false then .idle else .txInProgress
  | _ => .idle

end Sys2Proof.Machine
end

