-- ==== Sys2Proof/Certificates/Slice0/Obligations.lean ====
section
/-! DEFINITION. The statements for the provers, one `def Obligations.<Name> : Prop` each, in the order of OBLIGATIONS.json:
encodings, the step, the result and frame of every event, the stops, the environment's steps, the invariants and the
rules about the whole machine. A result is stated as the whole next state, so it is at once where the event completes,
what it writes and what it leaves alone. The field `accesses` in it is the model's own record of the port accesses (log
entry 6), and that the reserved bits of `GINTSTS` stay as they are is the model's choice (log entry 17). -/

section

open Sys2Proof Sys2Proof.Machine

/-! ## Encodings -/

/-- Decoding the encoding of a well-formed event gives it back, for every configuration with a layout `REGMAP` whose fields
do not overlap (30_encoding.md rules R100 to R109). -/
def Obligations.EncodeThenDecodeGivesTheEvent : Prop :=
  ∀ (c : Config) (i : Instr), c.regmap.wf = true → i.wf c = true → decode c i.format (encode c i) = .event i

/-- What decodes is a well-formed event of the format, and encodes to the bytes it came from; of a `GINTSTS` word the four
event bits come back, the reserved ones as 0 (30_encoding.md rules R100 to R109). -/
def Obligations.DecodeThenEncodeGivesTheBytes : Prop :=
  ∀ (c : Config) (f : Format) (bs : List Byte) (i : Instr), decode c f bs = .event i →
    i.wf c = true ∧ i.format = f ∧
      (f ≠ .gintsts → encode c i = bs) ∧
      (f = .gintsts → ∃ w : Word, bs = wordBytes w ∧ encode c i = wordBytes (w &&& c.regmap.gintMask))

/-- There is no trap: every status word and every SETUP packet decodes (30_encoding.md rule R110). That a `GINTSTS` word is a
single event exactly when one of its four bits is set, and is rejected as one when none or several are, is the model's
choice (log entry 24): the service step runs the list of all its events. -/
def Obligations.EveryWordDecodes : Prop :=
  (∀ (c : Config) (bs : List Byte), bs.length = 4 → ∃ i, decode c .rxsts bs = .event i) ∧
  (∀ (c : Config) (bs : List Byte), bs.length = 8 → ∃ i, decode c .setup bs = .event i) ∧
  (∀ (c : Config) (w : Word), (∃ i, decode c .gintsts (wordBytes w) = .event i) ↔ (gintstsEvents c.regmap w).length = 1)

/-- Words of 95_test_vectors.md sections 2.2 to 2.4 decode to the events those sections give, in the default layout
(PRESUMED, log entry 3). -/
def Obligations.VectorWordsDecode : Prop :=
  decode Config.default .gintsts [0x00, 0x10, 0x00, 0x00] = .event .usbrst ∧
  decode Config.default .rxsts [0x80, 0x00, 0x0C, 0x00] = .event (.setupRx ⟨0, 8, 0, 0b0110, 0, 0⟩) ∧
  decode Config.default .rxsts [0x01, 0x0C, 0x04, 0x00] = .event (.outRx ⟨1, 192, 0, 0b0010, 0, 0⟩) ∧
  decode Config.default .setup [0x80, 0x06, 0x00, 0x02, 0x00, 0x00, 0xFF, 0x00] =
    .event (.getDescriptorConfiguration ⟨0x80, 0x06, 0x0200, 0x0000, 0x00FF⟩) ∧
  decode Config.default .setup [0x00, 0x05, 0x05, 0x00, 0x00, 0x00, 0x00, 0x00] =
    .event (.setAddress ⟨0x00, 0x05, 0x0005, 0x0000, 0x0000⟩) ∧
  decode Config.default .setup [0x01, 0x0B, 0x01, 0x00, 0x01, 0x00, 0x08, 0x00] =
    .event (.setInterfaceAsOn ⟨0x01, 0x0B, 0x0001, 0x0001, 0x0008⟩)

/-- The decoder is the mask and match table of 30_encoding.md rule R109 under the default parameters, the default layout
(PRESUMED, log entry 3) among them. -/
def Obligations.DecodeMapIsTheMaskTable : Prop :=
  (∀ S : BitVec 64, some (decodeSetup Config.default (SetupPacket.ofS S)) = tableSetup S) ∧
  (∀ w : Word, some (decodeRxsts Config.default w) = tableRxsts w)

/-- 30_encoding.md rule R102: the handlers of the bits that are set in the snapshot run in the fixed order; the reserved bits
select none, wherever a layout has the four bits. -/
def Obligations.InterruptBitsInFixedOrder : Prop :=
  (∀ (m : RegMap) (g : Word),
    gintstsEvents m g =
      ([(m.usbrst, Instr.usbrst), (m.rxflvl, Instr.rxflvl), (m.enumdne, Instr.enumdne), (m.iepint, Instr.iepint)].filter
        (fun r => g.getLsbD r.1)).map (·.2) ∧
    gintstsEvents m (g &&& m.gintMask) = gintstsEvents m g) ∧
  ∀ s : State,
    service s = runEvents (gintstsEvents s.cfg.regmap s.gintsts) { s with accesses := [.read .gintsts] }

/-- The two data words of a SETUP entry carry the packet's fields little-endian (30_encoding.md rule R105, 20_memory.md
rules R70, R74, 43_request_decoder.md rule R200). The layout of the packet is the spec's own decision D5. -/
def Obligations.SetupFieldsAreLittleEndian : Prop :=
  ∀ b0 b1 b2 b3 b4 b5 b6 b7 : Byte,
    let p := SetupPacket.ofWords (leWord b0 b1 b2 b3) (leWord b4 b5 b6 b7)
    p.requestType = b0 ∧ p.request = b1 ∧
    p.value.toNat = b2.toNat + 256 * b3.toNat ∧
    p.index.toNat = b4.toNat + 256 * b5.toNat ∧
    p.length.toNat = b6.toNat + 256 * b7.toNat ∧
    p.word0 = leWord b0 b1 b2 b3 ∧ p.word1 = leWord b4 b5 b6 b7

/-- 20_memory.md rule R70: byte `4*i + j` stands in lane `j` of word `i`, lowest lane first; the engine's own words have 0
in the lanes no byte fills, and in the other direction those lanes are not looked at. -/
def Obligations.BytesPackLittleEndian : Prop :=
  (∀ bs : List Byte,
    (packBytes bs).flatMap wordBytes = bs ++ List.replicate (4 * ceil4 bs.length - bs.length) 0) ∧
  (∀ (lanes : Word) (bs : List Byte),
    (packLanes lanes bs).length = ceil4 bs.length ∧ unpackBytes bs.length (packLanes lanes bs) = bs)

/-- A register write and the 32-bit word it puts on the port carry the same fields, each at the position a layout gives it,
whatever the layout (10_state.md rules R34, R37 to R45). -/
def Obligations.PortWordCarriesTheFields : Prop :=
  ∀ (m : RegMap) (w : RegWrite), m.wf = true → RegWrite.ofWord m w.name (w.toWord m) = w

/-! ## The step -/

/-- A step of the engine runs the events of one `GINTSTS` snapshot in order, each by `exec`, and is taken only while the
interrupt line is high (44_interrupt_dispatcher.md rules R230, R231, 60_exceptions.md rules R288, R292). The schedule is
the model's own (log entry 4), and so is a step that finds it empty and the line low (log entry 22). -/
def Obligations.StepRunsTheDecodedEvents : Prop :=
  ∀ s : State,
    (∀ rest, s.schedule = .service :: rest → s.irq = true →
      step s = runEvents (gintstsEvents s.cfg.regmap s.gintsts) { s with schedule := rest, accesses := [.read .gintsts] }) ∧
    (∀ rest, s.schedule = .service :: rest → s.irq = false → step s = .next { s with schedule := rest }) ∧
    (∀ rest, s.schedule = .serviceAll :: rest → s.irq = true →
      step s = runEvents (gintstsEvents s.cfg.regmap s.gintsts) { s with accesses := [.read .gintsts] }) ∧
    (∀ rest, s.schedule = .serviceAll :: rest → s.irq = false → step s = .next { s with schedule := rest }) ∧
    (∀ e rest, s.schedule = .env e :: rest → step s = .next (envStep e { s with schedule := rest })) ∧
    (s.schedule = [] → s.irq = true →
      step s = runEvents (gintstsEvents s.cfg.regmap s.gintsts) { s with accesses := [.read .gintsts] }) ∧
    (s.schedule = [] → s.irq = false → step s = .next s) ∧
    runEvents [] s = .next s ∧
    (∀ i is t, exec i s = .next t → runEvents (i :: is) s = runEvents is t) ∧
    (∀ i is f, exec i s = .fault f → runEvents (i :: is) s = .fault f)

/-- The receive event runs what the word at the head of the RX FIFO decodes to, and a SETUP status word runs what the
two words behind it decode to (44_interrupt_dispatcher.md rules R233, R236, 43_request_decoder.md rule R201). That the
request's event, run on a state that has not latched the packet, is all of SETUP_RX rests on the model's reading that the
event latches its packet itself (DEDUCED, log entry 11); that two words are popped whatever the status word says is the
spec's own decision D18. -/
def Obligations.FetchedWordsSelectTheEvent : Prop :=
  (∀ (s : State) (w : Word) (rest : List Word), s.rxFifo = w :: rest →
    exec .rxflvl s =
      exec (decodeRxsts s.cfg w) { s with rxFifo := rest, accesses := s.accesses ++ [.popRx w] }) ∧
  (∀ (s : State) (st : RxStatus) (w0 w1 : Word) (rest : List Word), s.rxFifo = w0 :: w1 :: rest →
    exec (.setupRx st) s =
      exec (decodeSetup s.cfg (SetupPacket.ofWords w0 w1))
        { s with rxFifo := rest, accesses := s.accesses ++ [.popRx w0, .popRx w1] })

/-- The interrupt line is `(GINTSTS and GINTMSK) != 0`, on the words the registers read as in any layout, whatever stands in
the reserved bits of `GINTSTS`, and the service step is enabled exactly while it is high (60_exceptions.md section 2, rule
R288, which speaks of the four bits). That the reserved bits of `GINTMSK`, which the spec leaves open, are shown as 0, so
that the whole words may be taken, is the model's choice (DESIGN CHOICE, log entry 17), and so is that a service move which
is not enabled is dropped (log entry 4). -/
def Obligations.InterruptLineIsMaskedStatus : Prop :=
  ∀ s : State, s.cfg.regmap.wf = true →
    s.irq = (s.regWord .gintsts &&& s.regWord .gintmsk != 0) ∧
    ∀ rest, s.schedule = .service :: rest →
      step s = if s.regWord .gintsts &&& s.regWord .gintmsk != 0 then service { s with schedule := rest }
        else .next { s with schedule := rest }

/-! ## Interrupt events -/

/-- USBRST (44_interrupt_dispatcher.md rule R232, the state of 10_state.md rule R55). The return to `Idle` with an empty
context, the transfer sizes, the cleared stall and the order are the spec's own decisions D15, D16, D39. -/
def Obligations.UsbrstResult : Prop :=
  (∀ m : RegMap, m.wf = true → gintstsEvents m (bitAt m.usbrst true) = [.usbrst]) ∧
  ∀ s : State,
    exec .usbrst s =
      .next { s with
        devcfg := { s.devcfg with addr := 0 }
        epIn0 := ⟨⟨64, false, false, true⟩, ⟨0, 0⟩, s.epIn0.xfrc⟩
        epOut0 := ⟨⟨64, false, false, true⟩, ⟨1, 64⟩, s.epOut0.xfrc⟩
        epInS := s.epInS.disabled
        epOutS := s.epOutS.disabled
        streamingEnabled := false
        cteState := .idle
        ctx := s.ctx.dropped
        usbrst := false
        accesses := s.accesses ++
          [.read .devcfg, .write (.devcfg { s.devcfg with addr := 0 }),
           .write (.eptsiz .inp .ep0 ⟨0, 0⟩), .write (.epctl .inp .ep0 ⟨64, false, false, true, true⟩),
           .write (.eptsiz .out .ep0 ⟨1, 64⟩), .write (.epctl .out .ep0 ⟨64, false, false, true, true⟩)] ++
          disableAccesses s.epInS s.epOutS ++ [.write (.gintsts true false)] }

/-- ENUMDNE (44_interrupt_dispatcher.md rule R241), selected by its bit alone wherever a layout has it. -/
def Obligations.EnumdneResult : Prop :=
  (∀ m : RegMap, m.wf = true → gintstsEvents m (bitAt m.enumdne true) = [.enumdne]) ∧
  ∀ s : State,
    exec .enumdne s =
      .next { s with enumdne := false, accesses := s.accesses ++ [.write (.gintsts false true)] }

/-- RXFLVL (44_interrupt_dispatcher.md rules R233, R234): with a whole entry at the head of the RX FIFO and room for one
packet in TX FIFO 0 the event completes, and exactly that entry leaves the queue. -/
def Obligations.RxflvlTakesOneEntry : Prop :=
  ∀ (s : State) (w : Word) (rest : List Word), s.rxFifo = w :: rest →
    entryData s.cfg w ≤ rest.length → s.txFifo0.length + 16 ≤ s.cfg.txFifoDepth0.toNat →
    ∃ t, exec .rxflvl s = .next t ∧ t.rxFifo = rest.drop (entryData s.cfg w)

/-- IEPINT with no endpoint 0 completion: the streaming endpoint's flag is acknowledged and nothing else happens
(44_interrupt_dispatcher.md rule R242). The scan of the endpoints is the spec's own decision D22. -/
def Obligations.IepintWithoutEndpoint0Completion : Prop :=
  ∀ s : State, s.epIn0.xfrc = false →
    exec .iepint s =
      .next { s with
        epInS := s.epInS.acknowledged
        accesses := s.accesses ++ [.read (.epint .inp .ep0)] ++ streamScanAccesses s.epInS }

/-- IEPINT with an endpoint 0 completion that finds nothing left to send: the state is `Idle` afterwards
(44_interrupt_dispatcher.md rule R242, 42_control_transfer_engine.md rule R171 rows 7, 8 and 10). The scan is the spec's
own decision D22, and so is leaving the transfer at this event, D12. -/
def Obligations.IepintCompletionEndsTheTransfer : Prop :=
  ∀ s : State, s.epIn0.xfrc = true →
    (s.cteState = .idle ∨ s.cteState = .statusPending ∨
      (s.cteState = .txInProgress ∧ s.ctx.remaining = 0 ∧ s.ctx.zlpPending = false)) →
    exec .iepint s =
      .next { s with
        cteState := .idle
        epIn0 := s.epIn0.acknowledged
        epInS := s.epInS.acknowledged
        accesses := s.accesses ++ [.read (.epint .inp .ep0), .write (.epint .inp .ep0 true)] ++
          streamScanAccesses s.epInS }

/-- IEPINT with an endpoint 0 completion and bytes left: the flag is acknowledged first, then the next chunk of `min(mps,
remaining)` bytes is armed and pushed and the context advanced (42_control_transfer_engine.md rules R171 row 5, R175,
R176, R177). That the access list has every descriptor read before the first push is the model's reading (log entry 13).
The acknowledge first, the order of the arming, the zero-length packet owed and the stale mark are the spec's own
decisions D22, D37, D10, D30. -/
def Obligations.IepintCompletionSendsTheNextChunk : Prop :=
  ∀ s : State, s.epIn0.xfrc = true → s.cteState = .txInProgress → s.ctx.remaining ≠ 0 →
    let k := min s.ctx.mps.toNat s.ctx.remaining.toNat
    let off := s.ctx.offset.toNat
    let bs := ((s.store s.ctx.src).drop off).take k
    off + k ≤ (s.store s.ctx.src).length →
    s.txFifo0.length + ceil4 k ≤ s.cfg.txFifoDepth0.toNat →
    exec .iepint s =
      .next { s with
        ctx := { s.ctx with
          offset := BitVec.ofNat 16 (off + k)
          remaining := BitVec.ofNat 16 (s.ctx.remaining.toNat - k)
          zlpPending := s.ctx.zlpPending ||
            (decide (s.ctx.remaining.toNat - k = 0) && decide (k = s.ctx.mps.toNat) &&
              zlpWantedFor s.cfg.zlpPolicy (off + k) s.setup.length.toNat) }
        epIn0 := s.epIn0.acknowledged.armed (BitVec.ofNat 19 k)
        txFifo0 := s.txFifo0 ++ packBytes bs
        faults := staleFaults s.faults k s.txFifo0
        epInS := s.epInS.acknowledged
        accesses := s.accesses ++ [.read (.epint .inp .ep0), .write (.epint .inp .ep0 true)] ++
          packetAccesses s.epIn0 s.ctx.src off bs ++ streamScanAccesses s.epInS }

/-- IEPINT with an endpoint 0 completion, nothing left and a zero-length packet owed: the packet is armed, nothing is
pushed, and the transfer is still under way (42_control_transfer_engine.md rules R171 row 6, R177). The acknowledge first,
the order of the arming and the bit that remembers the packet are the spec's own decisions D22, D37, D13. -/
def Obligations.IepintCompletionSendsTheZeroLengthPacket : Prop :=
  ∀ s : State, s.epIn0.xfrc = true → s.cteState = .txInProgress → s.ctx.remaining = 0 → s.ctx.zlpPending = true →
    exec .iepint s =
      .next { s with
        ctx := { s.ctx with zlpPending := false }
        epIn0 := s.epIn0.acknowledged.armed 0
        epInS := s.epInS.acknowledged
        accesses := s.accesses ++ [.read (.epint .inp .ep0), .write (.epint .inp .ep0 true)] ++
          armAccesses .inp .ep0 s.epIn0 0 ++ streamScanAccesses s.epInS }

/-! ## Receive events -/

/-- SETUP_RX (44_interrupt_dispatcher.md rule R236, 45_environment.md rule R269): with the two data words and room for one
packet the event completes, whatever the status word's `bcnt` and `epnum` say. The two words are gone, the packet is
latched, and the answer is set up: a stall with the state `Idle`, or an armed IN packet. That the status word is not
looked at is the spec's own decision D18. -/
def Obligations.SetupRxAnswersEveryPacket : Prop :=
  ∀ (s : State) (st : RxStatus) (w0 w1 : Word) (rest : List Word), s.rxFifo = w0 :: w1 :: rest →
    s.txFifo0.length + 16 ≤ s.cfg.txFifoDepth0.toNat →
    ∃ t, exec (.setupRx st) s = .next t ∧ t.rxFifo = rest ∧ t.setup = SetupPacket.ofWords w0 w1 ∧
      ((t.cteState = .idle ∧ t.epIn0.ctl.stall = true) ∨
       ((t.cteState = .txInProgress ∨ t.cteState = .statusPending) ∧ t.epIn0.ctl.enabled = true ∧
         t.epIn0.ctl.nak = false ∧ t.epIn0.tsiz.pktcnt = 1))

/-- SETUP_DONE (44_interrupt_dispatcher.md rule R237): endpoint 0 OUT is armed again, a stall kept, nothing but the status
word popped, whatever its `bcnt` and `epnum` are. The writes that arm are the spec's own decision D17. -/
def Obligations.SetupDoneResult : Prop :=
  ∀ s : State,
    (∀ st, exec (.setupDone st) s =
      .next { s with
        epOut0 := s.epOut0.armed 64
        accesses := s.accesses ++ armAccesses .out .ep0 s.epOut0 64 }) ∧
    (∀ w rest, s.rxFifo = w :: rest →
      (RxStatus.ofWord s.cfg.regmap w).pktsts = s.cfg.pktstsSetupDone → (RxStatus.ofWord s.cfg.regmap w).pktsts ≠ s.cfg.pktstsSetupRx →
      exec .rxflvl s =
        .next { s with
          rxFifo := rest
          epOut0 := s.epOut0.armed 64
          accesses := s.accesses ++ [.popRx w] ++ armAccesses .out .ep0 s.epOut0 64 })

/-- OUT_RX (44_interrupt_dispatcher.md rule R238): exactly `ceil4(bcnt)` words leave the queue and the endpoint the packet
came in on is armed again, the streaming endpoint only while streaming is on. The writes that arm and which endpoint they
arm are the spec's own decision D17. -/
def Obligations.OutRxDrainsAndRearms : Prop :=
  ∀ (s : State) (st : RxStatus), ceil4 st.bcnt.toNat ≤ s.rxFifo.length →
    let pops := (s.rxFifo.take (ceil4 st.bcnt.toNat)).map Access.popRx
    let t := { s with rxFifo := s.rxFifo.drop (ceil4 st.bcnt.toNat), accesses := s.accesses ++ pops }
    (st.epnum = 0 →
      exec (.outRx st) s =
        .next { t with
          epOut0 := s.epOut0.armed 64
          accesses := s.accesses ++ pops ++ armAccesses .out .ep0 s.epOut0 64 }) ∧
    (st.epnum ≠ 0 → st.epnum = s.cfg.epStream → s.streamingEnabled = true →
      exec (.outRx st) s =
        .next { t with
          epOutS := s.epOutS.armed (s.cfg.streamMps.setWidth 19)
          accesses := s.accesses ++ pops ++ armAccesses .out .stream s.epOutS (s.cfg.streamMps.setWidth 19) }) ∧
    (st.epnum ≠ 0 → (st.epnum ≠ s.cfg.epStream ∨ s.streamingEnabled = false) → exec (.outRx st) s = .next t)

/-- PKTSTS_OTHER, the condition `UNEXPECTED_PKTSTS` (44_interrupt_dispatcher.md rule R239, 60_exceptions.md rule R284): the
status word alone has left the queue and nothing else changes, data words behind it included (the spec's own decision
D36). -/
def Obligations.PktstsOtherIgnored : Prop :=
  ∀ s : State,
    (∀ st, exec (.pktstsOther st) s = .next s) ∧
    (∀ w rest, s.rxFifo = w :: rest →
      (RxStatus.ofWord s.cfg.regmap w).pktsts ≠ s.cfg.pktstsSetupRx → (RxStatus.ofWord s.cfg.regmap w).pktsts ≠ s.cfg.pktstsSetupDone →
      (RxStatus.ofWord s.cfg.regmap w).pktsts ≠ s.cfg.pktstsOutRx →
      exec .rxflvl s = .next { s with rxFifo := rest, accesses := s.accesses ++ [.popRx w] })

/-! ## Requests -/

/-- GET_DESCRIPTOR_DEVICE and GET_DESCRIPTOR_CONFIGURATION (43_request_decoder.md rules R203, R204): with room in TX FIFO
0 for the first packet the response of `min(length, descriptor length)` bytes begins. That the event latches its packet is
the model's reading (log entry 11), and so is the access list's order, every descriptor read before the first push (log
entry 13). The zero-length packet owed, the empty response, the order of the arming and the stale mark are the spec's own
decisions D10, D11, D37, D30. -/
def Obligations.GetDescriptorStartsTheResponse : Prop :=
  ∀ (s : State) (p : SetupPacket),
    (let k := firstChunk (min p.length.toNat s.cfg.devDesc.length)
     (k = 0 ∨ s.txFifo0.length + ceil4 k ≤ s.cfg.txFifoDepth0.toNat) →
      exec (.getDescriptorDevice p) s = .next (responseStarted .dev p s)) ∧
    (let k := firstChunk (min p.length.toNat s.cfg.cfgDesc.length)
     (k = 0 ∨ s.txFifo0.length + ceil4 k ≤ s.cfg.txFifoDepth0.toNat) →
      exec (.getDescriptorConfiguration p) s = .next (responseStarted .cfg p s))

/-- GET_DESCRIPTOR_OTHER, exception `UNKNOWN_DESCRIPTOR_TYPE` (43_request_decoder.md rule R205, 60_exceptions.md rule
R283): endpoint 0 IN alone is stalled. That the old context is dropped at once is the spec's own decision D14; that the
event latches its packet is the model's reading (DEDUCED, log entry 11). -/
def Obligations.GetDescriptorOtherStallsIn : Prop :=
  (∀ (c : Config) (p : SetupPacket), p.typeAllowed c = true → p.request = 0x06 →
    p.descriptorType ≠ 0x01 → p.descriptorType ≠ 0x02 → decodeSetup c p = .getDescriptorOther p) ∧
  ∀ (s : State) (p : SetupPacket),
    exec (.getDescriptorOther p) s =
      .next { s with
        setup := p
        ctx := s.ctx.dropped
        cteState := .idle
        epIn0 := s.epIn0.stalled
        accesses := s.accesses ++ stallAccesses .inp s.epIn0 }

/-- SET_ADDRESS (43_request_decoder.md rule R206): the address is `value mod 128` at once, the speed is kept, and a
zero-length status packet is armed. That the old context is dropped at once is the spec's own decision D14; that the event
latches its packet is the model's reading (DEDUCED, log entry 11). -/
def Obligations.SetAddressWritesTheAddress : Prop :=
  (∀ (c : Config) (p : SetupPacket), p.typeAllowed c = true → p.request = 0x05 → decodeSetup c p = .setAddress p) ∧
  ∀ (s : State) (p : SetupPacket),
    exec (.setAddress p) s =
      .next { s with
        setup := p
        ctx := s.ctx.dropped
        cteState := .statusPending
        devcfg := ⟨s.devcfg.speed, BitVec.ofNat 7 (p.value.toNat % 128)⟩
        epIn0 := s.epIn0.armed 0
        accesses := s.accesses ++
          [.read .devcfg, .write (.devcfg ⟨s.devcfg.speed, BitVec.ofNat 7 (p.value.toNat % 128)⟩)] ++
          armAccesses .inp .ep0 s.epIn0 0 }

/-- SET_CONFIGURATION (43_request_decoder.md rule R207): a zero-length status packet and nothing else; the value is
neither stored nor checked (the spec's own decision D24). That the old context is dropped at once is the spec's own
decision D14; that the event latches its packet is the model's reading (DEDUCED, log entry 11). -/
def Obligations.SetConfigurationAcknowledges : Prop :=
  (∀ (c : Config) (p : SetupPacket), p.typeAllowed c = true → p.request = 0x09 →
    decodeSetup c p = .setConfiguration p) ∧
  ∀ (s : State) (p : SetupPacket),
    exec (.setConfiguration p) s =
      .next { s with
        setup := p
        ctx := s.ctx.dropped
        cteState := .statusPending
        epIn0 := s.epIn0.armed 0
        accesses := s.accesses ++ armAccesses .inp .ep0 s.epIn0 0 }

/-- SET_INTERFACE_AS_OFF (43_request_decoder.md rule R209): both streaming directions are disabled, their other fields
kept (the spec's own decision D39). That the old context is dropped at once is the spec's own decision D14; that the event
latches its packet is the model's reading (DEDUCED, log entry 11). -/
def Obligations.SetInterfaceOffDisablesStreaming : Prop :=
  (∀ (c : Config) (p : SetupPacket), p.typeAllowed c = true → p.request = 0x0B → p.recipient = 1 →
    p.index = 1 → p.value = 0 → decodeSetup c p = .setInterfaceAsOff p) ∧
  ∀ (s : State) (p : SetupPacket),
    exec (.setInterfaceAsOff p) s =
      .next { s with
        setup := p
        ctx := s.ctx.dropped
        cteState := .statusPending
        streamingEnabled := false
        epInS := s.epInS.disabled
        epOutS := s.epOutS.disabled
        epIn0 := s.epIn0.armed 0
        accesses := s.accesses ++ disableAccesses s.epInS s.epOutS ++ armAccesses .inp .ep0 s.epIn0 0 }

/-- SET_INTERFACE_AS_ON (43_request_decoder.md rule R210): both streaming directions are enabled with the streaming packet
size, NAK and stall cleared, and OUT is armed for one packet (the spec's own decision D40). That the old context is
dropped at once is the spec's own decision D14; that the event latches its packet is the model's reading (DEDUCED, log
entry 11). -/
def Obligations.SetInterfaceOnEnablesStreaming : Prop :=
  (∀ (c : Config) (p : SetupPacket), p.typeAllowed c = true → c.asAltActive ≠ 0 → p.request = 0x0B → p.recipient = 1 →
    p.index = 1 → p.value = c.asAltActive → decodeSetup c p = .setInterfaceAsOn p) ∧
  ∀ (s : State) (p : SetupPacket),
    exec (.setInterfaceAsOn p) s =
      .next { s with
        setup := p
        ctx := s.ctx.dropped
        cteState := .statusPending
        streamingEnabled := true
        epInS := ⟨⟨s.cfg.streamMps, false, false, true⟩, s.epInS.tsiz, s.epInS.xfrc⟩
        epOutS := ⟨⟨s.cfg.streamMps, false, false, true⟩, ⟨1, s.cfg.streamMps.setWidth 19⟩, s.epOutS.xfrc⟩
        epIn0 := s.epIn0.armed 0
        accesses := s.accesses ++
          [.write (.epctl .inp .stream ⟨s.cfg.streamMps, false, false, true, true⟩),
           .write (.eptsiz .out .stream ⟨1, s.cfg.streamMps.setWidth 19⟩),
           .write (.epctl .out .stream ⟨s.cfg.streamMps, false, false, true, true⟩)] ++
          armAccesses .inp .ep0 s.epIn0 0 }

/-- SET_INTERFACE_OTHER (43_request_decoder.md rule R211): a zero-length status packet and nothing else, for every other
interface and every other alternate setting (the spec's own decision D8). That the old context is dropped at once is the
spec's own decision D14; that the event latches its packet is the model's reading (DEDUCED, log entry 11). -/
def Obligations.SetInterfaceOtherAcknowledges : Prop :=
  (∀ (c : Config) (p : SetupPacket), p.typeAllowed c = true → p.request = 0x0B → p.recipient = 1 →
    (p.index ≠ 1 ∨ (p.value ≠ 0 ∧ p.value ≠ c.asAltActive)) → decodeSetup c p = .setInterfaceOther p) ∧
  ∀ (s : State) (p : SetupPacket),
    exec (.setInterfaceOther p) s =
      .next { s with
        setup := p
        ctx := s.ctx.dropped
        cteState := .statusPending
        epIn0 := s.epIn0.armed 0
        accesses := s.accesses ++ armAccesses .inp .ep0 s.epIn0 0 }

/-- UNSUPPORTED_REQUEST, the exception of that name (43_request_decoder.md rule R212, 60_exceptions.md rule R282): both
directions of endpoint 0 are stalled and nothing is transmitted (D7 for a SET_INTERFACE to no interface, D6 for the type
check: the spec's own decisions). That the old context is dropped at once is the spec's own decision D14; that the event
latches its packet is the model's reading (DEDUCED, log entry 11). -/
def Obligations.UnsupportedRequestStallsBoth : Prop :=
  (∀ (c : Config) (p : SetupPacket),
    ((c.reqTypeCheck = .standardOnly ∧ p.reqType ≠ 0) ∨
      (p.request ≠ 0x05 ∧ p.request ≠ 0x06 ∧ p.request ≠ 0x09 ∧
        (p.request ≠ 0x0B ∨ (c.setifRecipientCheck = true ∧ p.recipient ≠ 1)))) →
    decodeSetup c p = .unsupportedRequest p) ∧
  ∀ (s : State) (p : SetupPacket),
    exec (.unsupportedRequest p) s =
      .next { s with
        setup := p
        ctx := s.ctx.dropped
        cteState := .idle
        epIn0 := s.epIn0.stalled
        epOut0 := s.epOut0.stalled
        accesses := s.accesses ++ stallAccesses .inp s.epIn0 ++ stallAccesses .out s.epOut0 }

/-! ## Stops -/

/-- `F_RX_UNDERFLOW` (40_fifo_access.md rule R130, 60_exceptions.md rule R286): a queue shorter than the entry claims
stops the receive events, the fault recorded and the queue empty. That a stop carries its state is the model's choice (log
entry 8). The fault is the spec's own decision D29. -/
def Obligations.RxUnderflowStops : Prop :=
  ∀ s : State,
    (s.rxFifo = [] →
      ∃ u, exec .rxflvl s = .fault (.rxUnderflow u) ∧ u.faults = { s.faults with rxUnderflow := true }) ∧
    (∀ st, s.rxFifo.length < 2 →
      ∃ u, exec (.setupRx st) s = .fault (.rxUnderflow u) ∧ u.faults = { s.faults with rxUnderflow := true } ∧
        u.rxFifo = []) ∧
    (∀ st, s.rxFifo.length < ceil4 st.bcnt.toNat →
      ∃ u, exec (.outRx st) s = .fault (.rxUnderflow u) ∧ u.faults = { s.faults with rxUnderflow := true } ∧
        u.rxFifo = [])

/-- `F_TX_OVERFLOW(0)` (40_fifo_access.md rule R131, 60_exceptions.md rule R286): without room for the first packet a
GET_DESCRIPTOR stops with the packet armed, the context not yet advanced and the queue full, as the variant of program
PRG5 in 95_test_vectors.md has it. That a stop carries its state and that the event latches its packet are the model's
(log entries 8, 11). The faults are the spec's own decisions D29, D30. -/
def Obligations.GetDescriptorWithoutRoomStops : Prop :=
  ∀ (s : State) (p : SetupPacket) (src : Src) (i : Instr),
    (i = .getDescriptorDevice p ∧ src = .dev ∨ i = .getDescriptorConfiguration p ∧ src = .cfg) →
    let total := min p.length.toNat (s.store src).length
    firstChunk total ≠ 0 → s.txFifo0.length ≤ s.cfg.txFifoDepth0.toNat →
    s.cfg.txFifoDepth0.toNat < s.txFifo0.length + ceil4 (firstChunk total) →
    ∃ u, exec i s = .fault (.txOverflow .ep0 u) ∧
      u.faults = { staleFaults s.faults (firstChunk total) s.txFifo0 with txOverflow0 := true } ∧
      u.setup = p ∧ u.ctx = ⟨src, 0, BitVec.ofNat 16 total, 64, false⟩ ∧ u.cteState = .txInProgress ∧
      u.epIn0 = s.epIn0.armed (BitVec.ofNat 19 (firstChunk total)) ∧
      u.txFifo0.length = s.cfg.txFifoDepth0.toNat ∧ u.rxFifo = s.rxFifo

/-- An endpoint 0 completion stops in the cases the spec calls unreachable or never issued, which the invariant rules out
(the model's choice: log entries 9 and 10), and a chunk without room stops with `F_TX_OVERFLOW(0)`; the state a stop
carries is the model's (log entry 8). `F_TX_OVERFLOW` is the spec's own decision D29. -/
def Obligations.CompletionStops : Prop :=
  ∀ s : State, s.epIn0.xfrc = true →
    (s.cteState = .setupReceived → ∃ u, exec .iepint s = .fault (.completionWhileDecoding u)) ∧
    (s.cteState = .txInProgress → s.ctx.chunk ≠ 0 →
      (s.store s.ctx.src).length < s.ctx.offset.toNat + s.ctx.chunk →
      ∃ u, exec .iepint s = .fault (.descOverrun u)) ∧
    (s.cteState = .txInProgress → s.ctx.chunk ≠ 0 →
      s.ctx.offset.toNat + s.ctx.chunk ≤ (s.store s.ctx.src).length →
      s.cfg.txFifoDepth0.toNat < s.txFifo0.length + ceil4 s.ctx.chunk →
      ∃ u, exec .iepint s = .fault (.txOverflow .ep0 u) ∧ u.faults.txOverflow0 = true ∧ u.ctx = s.ctx)

/-! ## The environment -/

/-- `E_SETUP` (45_environment.md rule R263). That a move whose precondition fails leaves the state as it is is the model's
choice (log entry 4). The environment is the spec's own contract (decision D28, log entry 7). -/
def Obligations.EnvSetupResult : Prop :=
  ∀ (s : State) (p : SetupPacket) (x : AnyBits),
    (s.epOut0.ctl.enabled = true → s.rxFifo.length + 3 ≤ s.cfg.rxFifoDepth.toNat →
      envStep (.setup p x) s =
        { s with
          epIn0 := { s.epIn0 with ctl := { s.epIn0.ctl with nak := true, stall := false } }
          epOut0 := { s.epOut0 with ctl := { s.epOut0.ctl with nak := true, stall := false } }
          rxFifo := s.rxFifo ++
            [RxStatus.toWord s.cfg.regmap ⟨0, 8, x.dpid, s.cfg.pktstsSetupRx, x.frmnum, x.reserved⟩, p.word0, p.word1]
          setupDoneOwed := true
          wire := s.wire ++ [.setup p] }) ∧
    (s.epOut0.ctl.enabled = false ∨ s.cfg.rxFifoDepth.toNat < s.rxFifo.length + 3 → envStep (.setup p x) s = s)

/-- `E_IN` (45_environment.md rule R265). The bytes of a packet behind a recorded `F_TX_STALE` are those of the rule too,
which the source itself leaves open (log entry 26). The environment is the spec's own contract (decision D28, log entry
7). -/
def Obligations.EnvInResult : Prop :=
  ∀ (s : State) (n : Ep),
    let r := s.ep .inp n
    let size := r.tsiz.xfrsiz.toNat
    (r.ctl.stall = true → envStep (.inToken n) s = { s with wire := s.wire ++ [.inStall n] }) ∧
    (r.ctl.stall = false →
      (r.ctl.enabled = false ∨ r.ctl.nak = true ∨ r.tsiz.pktcnt = 0 ∨ (s.txFifo n).length < ceil4 size) →
      envStep (.inToken n) s = { s with wire := s.wire ++ [.inNak n] }) ∧
    (r.ctl.stall = false → r.ctl.enabled = true → r.ctl.nak = false → r.tsiz.pktcnt ≠ 0 →
      ceil4 size ≤ (s.txFifo n).length →
      envStep (.inToken n) s =
        { (s.setEp .inp n ⟨{ r.ctl with nak := true }, ⟨0, 0⟩, true⟩).setTxFifo n ((s.txFifo n).drop (ceil4 size)) with
          wire := s.wire ++ [.inData n ((((s.txFifo n).take (ceil4 size)).flatMap wordBytes).take size)] })

/-- `E_OUT` (45_environment.md rule R266). The environment is the spec's own contract (decision D28, log entry 7). -/
def Obligations.EnvOutResult : Prop :=
  ∀ (s : State) (n : Ep) (bytes : List Byte) (x : AnyBits),
    let r := s.ep .out n
    (r.ctl.stall = true → envStep (.outPacket n bytes x) s = { s with wire := s.wire ++ [.outStall n] }) ∧
    (r.ctl.stall = false →
      (r.ctl.enabled = false ∨ r.ctl.nak = true ∨ r.tsiz.pktcnt = 0 ∨ r.tsiz.xfrsiz.toNat < bytes.length ∨
        s.cfg.rxFifoDepth.toNat < s.rxFifo.length + (1 + ceil4 bytes.length)) →
      envStep (.outPacket n bytes x) s = { s with wire := s.wire ++ [.outNak n] }) ∧
    (r.ctl.stall = false → r.ctl.enabled = true → r.ctl.nak = false → r.tsiz.pktcnt ≠ 0 →
      bytes.length ≤ r.tsiz.xfrsiz.toNat →
      s.rxFifo.length + (1 + ceil4 bytes.length) ≤ s.cfg.rxFifoDepth.toNat →
      envStep (.outPacket n bytes x) s =
        { s.setEp .out n ⟨{ r.ctl with nak := true }, ⟨0, 0⟩, r.xfrc⟩ with
          rxFifo := s.rxFifo ++
            RxStatus.toWord s.cfg.regmap ⟨s.epNumber n, BitVec.ofNat 11 bytes.length, x.dpid, s.cfg.pktstsOutRx, x.frmnum, x.reserved⟩ ::
              packLanes x.lanes bytes
          wire := s.wire ++ [.outAck n bytes] })

/-- `E_BUSRESET`, `E_ENUMDONE`, `E_SETUPDONE`, `E_OTHER` (45_environment.md rules R261, R262, R264, R267). That a move
whose precondition fails leaves the state as it is is the model's choice (log entry 4). The environment is the spec's own
contract (decision D28, log entry 7). -/
def Obligations.EnvOtherStepsResult : Prop :=
  ∀ (s : State) (x : AnyBits) (code epnum : BitVec 4),
    envStep .busReset s = { s with usbrst := true, wire := s.wire ++ [.reset] } ∧
    envStep .enumDone s = { s with enumdne := true } ∧
    (s.setupDoneOwed = true → s.rxFifo.length + 1 ≤ s.cfg.rxFifoDepth.toNat →
      envStep (.setupDone x) s =
        { s with
          rxFifo := s.rxFifo ++ [RxStatus.toWord s.cfg.regmap ⟨0, 0, x.dpid, s.cfg.pktstsSetupDone, x.frmnum, x.reserved⟩]
          setupDoneOwed := false }) ∧
    (s.setupDoneOwed = false ∨ s.cfg.rxFifoDepth.toNat < s.rxFifo.length + 1 → envStep (.setupDone x) s = s) ∧
    (code ≠ s.cfg.pktstsSetupRx → code ≠ s.cfg.pktstsSetupDone → code ≠ s.cfg.pktstsOutRx →
      s.rxFifo.length + 1 ≤ s.cfg.rxFifoDepth.toNat →
      envStep (.other code epnum x) s =
        { s with rxFifo := s.rxFifo ++ [RxStatus.toWord s.cfg.regmap ⟨epnum, 0, x.dpid, code, x.frmnum, x.reserved⟩] }) ∧
    (code = s.cfg.pktstsSetupRx ∨ code = s.cfg.pktstsSetupDone ∨ code = s.cfg.pktstsOutRx ∨
      s.cfg.rxFifoDepth.toNat < s.rxFifo.length + 1 → envStep (.other code epnum x) s = s)

/-- What the environment never does (45_environment.md rule R268): write the engine's registers, a mask, the device
configuration or a FIFO size, change a packet size or an enable, set a stall, take words from the RX FIFO, add words to a
TX FIFO, clear a sticky flag. That the reserved bits of `GINTSTS` stay as they are (in `State.SameFixed`) is the model's
choice (DESIGN CHOICE, log entry 17). The environment is the spec's own contract (decision D28, log entry 7). -/
def Obligations.EnvironmentNeverDoes : Prop :=
  ∀ (e : EnvStep) (s : State),
    let t := envStep e s
    s.SameFixed t ∧ t.setup = s.setup ∧ t.ctx = s.ctx ∧ t.cteState = s.cteState ∧
    t.streamingEnabled = s.streamingEnabled ∧ t.devcfg = s.devcfg ∧
    t.faults = s.faults ∧
    (∀ d n, (t.ep d n).ctl.mps = (s.ep d n).ctl.mps ∧ (t.ep d n).ctl.enabled = (s.ep d n).ctl.enabled ∧
      ((t.ep d n).ctl.stall = true → (s.ep d n).ctl.stall = true) ∧
      ((s.ep d n).xfrc = true → (t.ep d n).xfrc = true)) ∧
    (∃ ws, t.rxFifo = s.rxFifo ++ ws) ∧ (∀ n, ∃ ws, s.txFifo n = ws ++ t.txFifo n) ∧
    (s.usbrst = true → t.usbrst = true) ∧ (s.enumdne = true → t.enumdne = true)

/-! ## Registers -/

/-- The access kinds of 10_state.md rule R35 (decision D21), on words in any layout: what each register of rules R37 to R45
holds after a word is written to it, and what a command bit reads as. The written bits a register has no field for change
nothing. -/
def Obligations.RegisterAccessKinds : Prop :=
  ∀ (s : State) (w : Word),
    let m := s.cfg.regmap
    (∀ d n, ((regWriteWord (.epctl d n) w s).ep d n).ctl =
      ⟨w.extractLsb' m.mps 11, (s.ep d n).ctl.nak && !w.getLsbD m.cnak, w.getLsbD m.stall, w.getLsbD m.enabled⟩) ∧
    (∀ d n, ((regWriteWord (.eptsiz d n) w s).ep d n).tsiz = ⟨w.extractLsb' m.pktcnt 10, w.extractLsb' m.xfrsiz 19⟩) ∧
    (∀ d n, ((regWriteWord (.epint d n) w s).ep d n).xfrc = ((s.ep d n).xfrc && !w.getLsbD m.xfrc)) ∧
    (regWriteWord .gintsts w s).usbrst = (s.usbrst && !w.getLsbD m.usbrst) ∧
    (regWriteWord .gintsts w s).enumdne = (s.enumdne && !w.getLsbD m.enumdne) ∧
    (regWriteWord .gintsts w s).rxflvl = s.rxflvl ∧
    (regWriteWord .gintsts w s).iepint = s.iepint ∧
    (regWriteWord .gintmsk w s).gintmsk =
      ⟨w.getLsbD m.rxflvl, w.getLsbD m.usbrst, w.getLsbD m.enumdne, w.getLsbD m.iepint⟩ ∧
    (regWriteWord .rxfsiz w s).rxfsiz = w.extractLsb' m.rxDepth 16 ∧
    (regWriteWord (.txfsiz .ep0) w s).txfsiz0 = ⟨w.extractLsb' m.txStart 16, w.extractLsb' m.txDepth 16⟩ ∧
    (regWriteWord (.txfsiz .stream) w s).txfsizS = ⟨w.extractLsb' m.txStart 16, w.extractLsb' m.txDepth 16⟩ ∧
    (regWriteWord .devcfg w s).devcfg = ⟨w.extractLsb' m.speed 2, w.extractLsb' m.addr 7⟩ ∧
    (regWriteWord .depmsk w s).depmsk = w.getLsbD m.xfrcMask ∧
    (m.wf = true →
      (∀ d n, ((regWriteWord (.epctl d n) w s).regWord (.epctl d n)).getLsbD m.cnak = false) ∧
      (∀ d n, ((regWriteWord (.epctl d n) w s).regWord (.epctl d n)).extractLsb' m.mps 11 = w.extractLsb' m.mps 11) ∧
      (∀ r, ((regWriteWord r w s).regWord .gintsts).getLsbD m.rxflvl = s.rxflvl) ∧
      ∀ r, r ≠ .gintsts → (∀ d n, r ≠ .epctl d n) → (∀ d n, r ≠ .epint d n) →
        RegWrite.ofWord m r ((regWriteWord r w s).regWord r) = RegWrite.ofWord m r w)

/-- The words the endpoint operations put on the port (41_endpoint_state.md rules R150, R154, 30_encoding.md rule R115; in
the default layout: PRESUMED, log entry 3). What the operations write is the spec's own decisions D16, D40. -/
def Obligations.ArmingWordsOnThePort : Prop :=
  (∀ s : State, ((resetEp0 s).accesses.drop s.accesses.length).filterMap
      (fun a => match a with | .write w => some (w.toWord RegMap.default) | _ => none) =
    [0x00000000, 0x84000040, 0x00080040, 0x84000040]) ∧
  (∀ s : State, ((enableStreaming 192 s).accesses.drop s.accesses.length).filterMap
      (fun a => match a with | .write w => some (w.toWord RegMap.default) | _ => none) =
    [0x840000C0, 0x000800C0, 0x840000C0]) ∧
  (∀ k : BitVec 19, (RegWrite.eptsiz .inp .ep0 ⟨1, k⟩).toWord RegMap.default = (1 <<< 19) ||| k.setWidth 32)

/-! ## Reset and invariants -/

/-- The power-on state of 10_state.md rule R54, for every configuration (all but the address are the spec's own decision
D26), and of 70_reset_and_hazards.md rule R325, by which no SETUP-done entry is owed and the wire trace is empty (decision
D28). The speed is the layout's full-speed code (rule R41; 0b11 in the default layout is PRESUMED, log entry 3). What the
rules leave unspecified, and the model gives a value (log entry 1), is not said. -/
def Obligations.PowerOnValues : Prop :=
  State.reset = State.powerOn Config.default ∧
  ∀ c : Config,
    let s := State.powerOn c
    s.cfg = c ∧ s.cteState = .idle ∧ s.ctx.remaining = 0 ∧ s.ctx.mps = 64 ∧ s.ctx.zlpPending = false ∧
    s.streamingEnabled = false ∧ s.devcfg = ⟨c.regmap.fullSpeed, 0⟩ ∧ s.usbrst = false ∧ s.enumdne = false ∧
    s.rxflvl = false ∧ s.iepint = false ∧ s.gintmsk = ⟨true, true, true, true⟩ ∧ s.depmsk = true ∧
    s.rxfsiz = c.rxFifoDepth ∧ s.txfsiz0.depth = c.txFifoDepth0 ∧ s.txfsizS.depth = c.txFifoDepthS ∧
    (∀ d n, s.ep d n = ⟨⟨0, true, false, false⟩, ⟨0, 0⟩, false⟩) ∧
    s.rxFifo = [] ∧ (∀ n, s.txFifo n = []) ∧ s.faults = FaultRecord.empty ∧ s.setupDoneOwed = false ∧ s.wire = [] ∧
    s.irq = false

/-- The invariant holds at power-on, for every admissible configuration, at reset among them. That an OUT endpoint is
never offered more bytes than a status word counts (log entry 18) and that the context's packet size is 64 in 11 bits (log
entry 16) are clauses of the model's own. -/
def Obligations.InvariantHoldsAtReset : Prop :=
  State.reset.Inv ∧ State.reset.rxAligned ∧
  ∀ c : Config, c.wf = true → (State.powerOn c).Inv ∧ (State.powerOn c).rxAligned

/-- Every step keeps the invariant (10_state.md rule R32 items 4 to 7, 42_control_transfer_engine.md rule R186): the FIFOs
within their depths, never `SetupReceived` between steps, streaming on exactly while both directions are enabled, nothing
to send outside a transfer, and in a transfer the bytes sent and the bytes left making up the response. That an OUT
endpoint is never offered more bytes than a status word counts (log entry 18) and that the context's packet size is 64 in
11 bits (log entry 16) are clauses of the model's own. -/
def Obligations.EveryStepKeepsTheInvariant : Prop :=
  ∀ s t : State, s.Inv → step s = .next t → t.Inv

/-- Every step keeps the RX FIFO made of whole entries, so that a status word is at its head (20_memory.md rule R77). The
premise that the room offered can be counted is the model's (log entry 18), and the entries come from the environment of
decision D28. -/
def Obligations.EveryStepKeepsEntriesWhole : Prop :=
  ∀ s t : State, s.cfg.wf = true → s.outRoomCountable → s.rxAligned → step s = .next t → t.rxAligned

/-- In a state of the invariant with whole entries the one way a step can stop is a full TX FIFO 0: no read past a
descriptor, no completion while decoding, no underflow, no push to the streaming endpoint (20_memory.md rules R72, R81,
40_fifo_access.md rule R131). That a stop carries its state is the model's choice (log entry 8); of the stops ruled out
the first two are the model's own (log entries 9, 10), the others the spec's decision D29. -/
def Obligations.OnlyAFullTxFifoStopsAStep : Prop :=
  ∀ s : State, s.cfg.wf = true → s.Inv → s.rxAligned →
    (∃ t, step s = .next t) ∨ (∃ u, step s = .fault (.txOverflow .ep0 u))

/-- Endpoint 0 keeps its packet size 64 from the first bus reset on (10_state.md rule R32 item 2). -/
def Obligations.Endpoint0KeepsItsPacketSize : Prop :=
  (∀ s t : State, exec .usbrst s = .next t → t.ep0Sized) ∧
  (∀ s t : State, s.ep0Sized → step s = .next t → t.ep0Sized)

/-- No step changes a parameter, a mask, a FIFO size, the speed or `GCTL` (60_exceptions.md rule R289, 10_state.md rules R36,
R38 to R42), nor the reserved bits of `GINTSTS`: that these stay is the model's choice (DESIGN CHOICE, log entry 17), for
10_state.md rule R34 leaves them open at each read. -/
def Obligations.NoStepChangesTheFixedRegisters : Prop :=
  ∀ s t : State, step s = .next t → s.SameFixed t

/-- 10_state.md rule R56 (the record is the spec's own device, D29 and D30): the fault record is empty at power-on and a
fault once recorded is never removed, not by a bus reset either, nor in the state a stop carries. That a stop carries its
state is the model's choice (log entry 8), and two of the stops, `descOverrun` and `completionWhileDecoding`, are the
model's own (log entries 9, 10). -/
def Obligations.FaultRecordNeverShrinks : Prop :=
  (∀ c, (State.powerOn c).faults = FaultRecord.empty) ∧
  ∀ s u : State,
    (step s = .next u ∨ step s = .fault (.rxUnderflow u) ∨ (∃ n, step s = .fault (.txOverflow n u)) ∨
      step s = .fault (.descOverrun u) ∨ step s = .fault (.completionWhileDecoding u)) →
    (s.faults.rxUnderflow = true → u.faults.rxUnderflow = true) ∧
    (s.faults.txOverflow0 = true → u.faults.txOverflow0 = true) ∧
    (s.faults.txOverflowS = true → u.faults.txOverflowS = true) ∧
    (s.faults.txStale = true → u.faults.txStale = true)

/-! ## Rules about the whole machine -/

/-- The device address changes only by a service step: one that handles a bus reset, to 0, or one that handles a receive
entry and leaves a latched packet that decodes to SET_ADDRESS, to the low 7 bits of its value (43_request_decoder.md rule
R206, 44_interrupt_dispatcher.md rule R232; property P3 of 95_test_vectors.md). What the next step is, is read from the
schedule (log entry 4). -/
def Obligations.AddressChangesOnlyByResetOrSetAddress : Prop :=
  ∀ s t : State, step s = .next t → t.devcfg.addr ≠ s.devcfg.addr →
    (s.handles .usbrst ∧ t.devcfg.addr = 0) ∨
    (s.handles .rxflvl ∧ decodeSetup t.cfg t.setup = .setAddress t.setup ∧
      t.devcfg.addr = BitVec.ofNat 7 (t.setup.value.toNat % 128))

/-- The transition table of 42_control_transfer_engine.md rule R171, by event. Its rows for the end of a transfer and for
bus reset are the spec's own decisions D12, D15. -/
def Obligations.ControlStateFollowsTheTransitionTable : Prop :=
  ∀ s t : State,
    (exec .usbrst s = .next t → t.cteState = .idle ∧ t.ctx.remaining = 0 ∧ t.ctx.zlpPending = false) ∧
    (∀ i st, (i = .enumdne ∨ i = .setupDone st ∨ i = .outRx st ∨ i = .pktstsOther st) → exec i s = .next t →
      t.cteState = s.cteState ∧ t.ctx = s.ctx ∧ t.setup = s.setup) ∧
    (∀ st w0 w1 rest, s.rxFifo = w0 :: w1 :: rest → exec (.setupRx st) s = .next t →
      t.cteState = cteAfterSetup s.cfg (SetupPacket.ofWords w0 w1)) ∧
    (exec .iepint s = .next t →
      t.cteState = if s.epIn0.xfrc then cteAfterComplete s.cteState s.ctx else s.cteState)

/-- 44_interrupt_dispatcher.md rule R243: a service step leaves no flag it observed, and acknowledges each as the rule says:
the sticky flags by writing 1 to them, the receive level by popping the entry, the IN level by clearing the completion
flags behind it. -/
def Obligations.ServiceAcknowledgesEveryFlag : Prop :=
  ∀ s t : State, s.cfg.regmap.wf = true → service s = .next t →
    t.usbrst = false ∧ t.enumdne = false ∧
    (s.usbrst = true → Access.write (.gintsts true false) ∈ t.accesses) ∧
    (s.enumdne = true → Access.write (.gintsts false true) ∈ t.accesses) ∧
    (s.rxflvl = true → t.rxFifo.length < s.rxFifo.length ∧ ∃ w, Access.popRx w ∈ t.accesses) ∧
    (s.iepint = true → t.epIn0.xfrc = false ∧ t.epInS.xfrc = false ∧ t.iepint = false ∧
      (s.epIn0.xfrc = true → Access.write (.epint .inp .ep0 true) ∈ t.accesses) ∧
      (s.epInS.xfrc = true → Access.write (.epint .inp .stream true) ∈ t.accesses))

/-- With a quiet host the interrupt line is low after at most one service step for each word of the RX FIFO and one more
(44_interrupt_dispatcher.md rule R243, 70_reset_and_hazards.md rule R326; suggestion 6 of 95_test_vectors.md section 4).
That the engine moves while the schedule is empty, and idles once the line is low, is the model's choice (log entries 4, 22)
and stands for the fairness 45_environment.md rule R270 asks a claim to state: the engine's enabled steps are taken, the
host takes none. -/
def Obligations.QuietHostLowersTheLine : Prop :=
  ∀ s t : State, s.cfg.regmap.wf = true → s.schedule = [] → Sys2Proof.core.run (s.rxFifo.length + 1) s = .next t → State.irq t = false

/-- A stall of endpoint 0 is raised only by a service step that handles a receive entry and leaves a latched request the
decoder does not serve, OUT only an unlisted one; the streaming endpoints are never stalled (41_endpoint_state.md rules
R156, R159, 43_request_decoder.md rules R205, R212, R214). What the next step is, is read from the schedule (log entry 4).
-/
def Obligations.StallRaisedOnlyByUnservedRequests : Prop :=
  ∀ s t : State, step s = .next t →
    (t.epOut0.ctl.stall = true → s.epOut0.ctl.stall = false →
      s.handles .rxflvl ∧ t.setup.listed t.cfg = false) ∧
    (t.epIn0.ctl.stall = true → s.epIn0.ctl.stall = false →
      s.handles .rxflvl ∧
        (t.setup.listed t.cfg = false ∨
          (t.setup.request = 0x06 ∧ t.setup.descriptorType ≠ 0x01 ∧ t.setup.descriptorType ≠ 0x02))) ∧
    (t.epInS.ctl.stall = true → s.epInS.ctl.stall = true) ∧
    (t.epOutS.ctl.stall = true → s.epOutS.ctl.stall = true)

/-- A stall of endpoint 0 ends only when a SETUP packet is accepted or a service step handles a bus reset
(41_endpoint_state.md rule R159, 70_reset_and_hazards.md rule R336). How a stall ends is the spec's own decision D34. What
the next step is, is read from the schedule (log entry 4). -/
def Obligations.StallEndsOnlyBySetupOrReset : Prop :=
  ∀ s t : State, step s = .next t →
    ((s.epIn0.ctl.stall = true ∧ t.epIn0.ctl.stall = false) ∨ (s.epOut0.ctl.stall = true ∧ t.epOut0.ctl.stall = false)) →
    (∃ p, t.wire = s.wire ++ [.setup p]) ∨ s.handles .usbrst

/-- What the peripheral returns in the reserved bits of `GINTSTS` changes no step (10_state.md rule R34, 30_encoding.md rule
R102). That a step leaves them as they are is the model's choice (DESIGN CHOICE, log entry 17). -/
def Obligations.ReservedStatusBitsChangeNothing : Prop :=
  ∀ (s t : State) (g : Word), step s = .next t →
    step { s with gintReserved := g } = .next { t with gintReserved := g }

/-- No step depends on `REG_ADDR`: registers and FIFO ports are reached by name (20_memory.md rule R82, decision D2). The
stops and the state each carries are as log entries 8, 9, 10 have them. -/
def Obligations.RegisterAddressesChangeNothing : Prop :=
  ∀ (s : State) (a : List (PortName × Nat)),
    let r (u : State) : State := { u with cfg := { u.cfg with regAddr := a } }
    (∀ t, step s = .next t → step (r s) = .next (r t)) ∧
    (∀ u, step s = .fault (.rxUnderflow u) → step (r s) = .fault (.rxUnderflow (r u))) ∧
    (∀ n u, step s = .fault (.txOverflow n u) → step (r s) = .fault (.txOverflow n (r u))) ∧
    (∀ u, step s = .fault (.descOverrun u) → step (r s) = .fault (.descOverrun (r u))) ∧
    (∀ u, step s = .fault (.completionWhileDecoding u) → step (r s) = .fault (.completionWhileDecoding (r u)))

/-- What power-on leaves unspecified is not read before it is written (10_state.md rules R22, R24, R25, R36,
70_reset_and_hazards.md rule R321): outside a transfer, other values in the latch, `ctx.src`, `ctx.offset` and `GCTL` give
the same step, and once a transfer has begun only `GCTL` still differs. -/
def Obligations.UnspecifiedResetValuesAreNeverRead : Prop :=
  ∀ (s t : State) (p : SetupPacket) (src : Src) (off : Half) (g : Word), s.cteState ≠ .txInProgress →
    step s = .next t →
    ∃ t', step { s with setup := p, ctx := { s.ctx with src := src, offset := off }, gctl := g } = .next t' ∧
      t' = { t with setup := t'.setup, ctx := { t.ctx with src := t'.ctx.src, offset := t'.ctx.offset }, gctl := g } ∧
      (t.cteState = .txInProgress → t'.setup = t.setup ∧ t'.ctx = t.ctx)

/-- The packets of a response (42_control_transfer_engine.md rule R185): in order they make up the bytes, there are `total
div 64 + 1` of them, every one but the last has 64 bytes and the last is shorter. The last packet and the packet of an
empty response are the spec's own decisions D10, D11. -/
def Obligations.ResponsePacketsEndShort : Prop :=
  ∀ (cap : Nat) (bs : List Byte),
    let packets := responsePackets .alwaysOnMultiple cap bs
    packets.flatten = bs ∧ packets.length = bs.length / 64 + 1 ∧
    (∀ q ∈ packets.dropLast, q.length = 64) ∧ (∀ q ∈ packets.getLast?, q.length < 64) ∧
    (responsePackets .onlyIfShortOfWLength cap bs).flatten = bs

/-- A descriptor request is answered in full (42_control_transfer_engine.md rule R186; properties P1 and P2 of
95_test_vectors.md): from a quiet state the host receives the first `min(length, descriptor length)` bytes of the
descriptor, cut into the packets of rule R185, after which the engine is `Idle`, TX FIFO 0 is empty and no fault has been
added. That the event latches its packet and that the host's and the engine's moves alternate as a schedule says are the
model's (log entries 4, 11). The packets rest on the spec's own decisions D10, D11, D12 and the host on its contract D28.
-/
def Obligations.DescriptorRequestIsAnsweredInFull : Prop :=
  ∀ (s t : State) (p : SetupPacket) (src : Src) (i : Instr), s.cfg.wf = true → s.Quiet →
    (i = .getDescriptorDevice p ∧ src = .dev ∨ i = .getDescriptorConfiguration p ∧ src = .cfg) →
    exec i s = .next t →
    let bs := (s.store src).take p.length.toNat
    let packets := responsePackets s.cfg.zlpPolicy p.length.toNat bs
    ∃ u : State, Sys2Proof.core.run (2 * packets.length) { t with schedule := hostTakes packets.length } = .next u ∧
      u.wire = s.wire ++ packets.map (WireEvent.inData .ep0) ∧
      u.cteState = .idle ∧ u.txFifo0 = [] ∧ u.faults = s.faults ∧ u.schedule = [] ∧ u.epIn0.xfrc = false

end
end

