-- ==== Sys2Proof/Laws/Layout.lean ====
section
/-! SUPPORT. Fields in words: what a field put at a position is, bit by bit, and that it is read back, beside any field with
bits of its own; and what a well-formed layout says of two fields. -/

namespace Sys2Proof

/-- A bit of a one-bit word. -/
theorem bitAt_getLsbD (i j : Nat) (b : Bool) (hi : i < 32) : (bitAt i b).getLsbD j = (b && decide (i = j)) := by
  cases b with
  | false => simp [bitAt]
  | true =>
    simp only [bitAt, if_true, BitVec.getLsbD_ofNat, Nat.testBit_two_pow, Bool.true_and]
    by_cases h : i = j
    · simp [h, h ▸ hi]
    · simp [h]

/-- A bit of a word with one field. -/
theorem fieldAt_getLsbD {n : Nat} (lo j : Nat) (v : BitVec n) :
    (fieldAt lo v).getLsbD j = (decide (j < 32) && !decide (j < lo) && v.getLsbD (j - lo)) := by
  simp only [fieldAt, BitVec.getLsbD_shiftLeft, BitVec.getLsbD_setWidth]
  by_cases h : j < 32
  · have : j - lo < 32 := by omega
    simp [h, this]
  · simp [h]

/-- A field is read back from where it was put. -/
theorem extract_fieldAt {n : Nat} (lo : Nat) (v : BitVec n) (h : lo + n ≤ 32) :
    (fieldAt lo v).extractLsb' lo n = v := by
  refine BitVec.eq_of_getLsbD_eq fun i hi => ?_
  have : lo + i < 32 := by omega
  simp [fieldAt_getLsbD, hi, this, -BitVec.getLsbD_eq_getElem]

/-- A field shows nothing where another has its bits. -/
theorem extract_fieldAt_apart {n k : Nat} (lo lo' : Nat) (v : BitVec n) (h : lo + n ≤ lo' ∨ lo' + k ≤ lo) :
    (fieldAt lo v).extractLsb' lo' k = 0#k := by
  refine BitVec.eq_of_getLsbD_eq fun i hi => ?_
  simp only [BitVec.getLsbD_extractLsb', fieldAt_getLsbD, hi, decide_true, Bool.true_and, BitVec.getLsbD_zero]
  rcases h with h | h
  · have : n ≤ lo' + i - lo := by omega
    simp [BitVec.getLsbD_of_ge _ _ this]
  · have : lo' + i < lo := by omega
    simp [this]

theorem extract_or (lo k : Nat) (a b : Word) :
    (a ||| b).extractLsb' lo k = a.extractLsb' lo k ||| b.extractLsb' lo k := by
  refine BitVec.eq_of_getLsbD_eq fun i hi => ?_
  simp [BitVec.getLsbD_extractLsb', Bool.and_or_distrib_left, -BitVec.getLsbD_eq_getElem]

/-- A layout keeps the four interrupt bits in a word and apart. -/
theorem RegMap.gint_apart {m : RegMap} (h : m.wf = true) :
    m.rxflvl < 32 ∧ m.usbrst < 32 ∧ m.enumdne < 32 ∧ m.iepint < 32 ∧ m.rxflvl ≠ m.usbrst ∧ m.rxflvl ≠ m.enumdne ∧
      m.rxflvl ≠ m.iepint ∧ m.usbrst ≠ m.enumdne ∧ m.usbrst ≠ m.iepint ∧ m.enumdne ≠ m.iepint := by
  simp only [RegMap.wf, Bool.and_eq_true] at h
  have h' := h.1.1.1.1.1.1.1.1
  simp only [fieldsApart, List.all_cons, List.all_nil, Bool.and_eq_true, Bool.or_eq_true, decide_eq_true_eq] at h'
  omega

/-- A layout keeps the fields of the status word in it and apart. -/
theorem RegMap.rxsts_apart {m : RegMap} (h : m.wf = true) :
    fieldsApart [(m.epnum, 4), (m.bcnt, 11), (m.dpid, 2), (m.pktsts, 4), (m.frmnum, 4)] = true := by
  simp only [RegMap.wf, Bool.and_eq_true] at h
  exact h.1.1.1.1.1.1.1.2

end Sys2Proof
end

