-- ==== Sys2Proof/Laws/State.lean ====
section
/-! SUPPORT. What each named update leaves in each field, true by definition, so that no later proof unfolds a record
update: the accessors over a replaced entry, and the closed form of every operation that is a register update. -/

namespace Sys2Proof.Machine

@[simp] theorem ep_inp_ep0 (s : State) : s.ep .inp .ep0 = s.epIn0 := rfl
@[simp] theorem ep_out_ep0 (s : State) : s.ep .out .ep0 = s.epOut0 := rfl
@[simp] theorem ep_inp_stream (s : State) : s.ep .inp .stream = s.epInS := rfl
@[simp] theorem ep_out_stream (s : State) : s.ep .out .stream = s.epOutS := rfl
theorem setEp_inp_ep0 (s : State) (r : EpRegs) : s.setEp .inp .ep0 r = { s with epIn0 := r } := rfl
theorem setEp_out_ep0 (s : State) (r : EpRegs) : s.setEp .out .ep0 r = { s with epOut0 := r } := rfl
theorem setEp_inp_stream (s : State) (r : EpRegs) : s.setEp .inp .stream r = { s with epInS := r } := rfl
theorem setEp_out_stream (s : State) (r : EpRegs) : s.setEp .out .stream r = { s with epOutS := r } := rfl
@[simp] theorem txFifo_ep0 (s : State) : s.txFifo .ep0 = s.txFifo0 := rfl
@[simp] theorem txFifo_stream (s : State) : s.txFifo .stream = s.txFifoS := rfl
theorem setTxFifo_ep0 (s : State) (q : List Word) : s.setTxFifo .ep0 q = { s with txFifo0 := q } := rfl
theorem setTxFifo_stream (s : State) (q : List Word) : s.setTxFifo .stream q = { s with txFifoS := q } := rfl
@[simp] theorem txDepth_ep0 (s : State) : s.txDepth .ep0 = s.cfg.txFifoDepth0.toNat := rfl
@[simp] theorem txDepth_stream (s : State) : s.txDepth .stream = s.cfg.txFifoDepthS.toNat := rfl
@[simp] theorem mpsOf_ep0 (s : State) : s.mpsOf .ep0 = 64 := rfl
@[simp] theorem mpsOf_stream (s : State) : s.mpsOf .stream = s.cfg.streamMps := rfl
/-- The store depends on the configuration alone. -/
theorem store_eq (s : State) (x : Src) : s.store x = storeOf s.cfg x := rfl
@[simp] theorem storeOf_dev (c : Config) : storeOf c .dev = c.devDesc := rfl
@[simp] theorem storeOf_cfg (c : Config) : storeOf c .cfg = c.cfgDesc := rfl
@[simp] theorem store_dev (s : State) : s.store .dev = s.cfg.devDesc := rfl
@[simp] theorem store_cfg (s : State) : s.store .cfg = s.cfg.cfgDesc := rfl

/-- An entry read after a write of the same entry. -/
@[simp] theorem ep_setEp_same (s : State) (d : Dir) (n : Ep) (r : EpRegs) : (s.setEp d n r).ep d n = r := by
  cases d <;> cases n <;> rfl

/-- A write of one entry leaves every other entry. -/
theorem ep_setEp_other (s : State) (d e : Dir) (n m : Ep) (r : EpRegs) (h : (d, n) ≠ (e, m)) :
    (s.setEp d n r).ep e m = s.ep e m := by
  cases d <;> cases n <;> cases e <;> cases m <;> first | rfl | exact absurd rfl h

/-- A TX FIFO read after a write of the same FIFO. -/
@[simp] theorem txFifo_setTxFifo_same (s : State) (n : Ep) (q : List Word) : (s.setTxFifo n q).txFifo n = q := by
  cases n <;> rfl

/-! ## Appending to the access list -/

@[simp] theorem logAll_cfg (l : List Access) (s : State) : (logAll l s).cfg = s.cfg := rfl
@[simp] theorem logAll_setup (l : List Access) (s : State) : (logAll l s).setup = s.setup := rfl
@[simp] theorem logAll_ctx (l : List Access) (s : State) : (logAll l s).ctx = s.ctx := rfl
@[simp] theorem logAll_cteState (l : List Access) (s : State) : (logAll l s).cteState = s.cteState := rfl
@[simp] theorem logAll_streamingEnabled (l : List Access) (s : State) : (logAll l s).streamingEnabled = s.streamingEnabled := rfl
@[simp] theorem logAll_gctl (l : List Access) (s : State) : (logAll l s).gctl = s.gctl := rfl
@[simp] theorem logAll_usbrst (l : List Access) (s : State) : (logAll l s).usbrst = s.usbrst := rfl
@[simp] theorem logAll_enumdne (l : List Access) (s : State) : (logAll l s).enumdne = s.enumdne := rfl
@[simp] theorem logAll_gintReserved (l : List Access) (s : State) : (logAll l s).gintReserved = s.gintReserved := rfl
@[simp] theorem logAll_gintmsk (l : List Access) (s : State) : (logAll l s).gintmsk = s.gintmsk := rfl
@[simp] theorem logAll_rxfsiz (l : List Access) (s : State) : (logAll l s).rxfsiz = s.rxfsiz := rfl
@[simp] theorem logAll_txfsiz0 (l : List Access) (s : State) : (logAll l s).txfsiz0 = s.txfsiz0 := rfl
@[simp] theorem logAll_txfsizS (l : List Access) (s : State) : (logAll l s).txfsizS = s.txfsizS := rfl
@[simp] theorem logAll_devcfg (l : List Access) (s : State) : (logAll l s).devcfg = s.devcfg := rfl
@[simp] theorem logAll_depmsk (l : List Access) (s : State) : (logAll l s).depmsk = s.depmsk := rfl
@[simp] theorem logAll_epIn0 (l : List Access) (s : State) : (logAll l s).epIn0 = s.epIn0 := rfl
@[simp] theorem logAll_epOut0 (l : List Access) (s : State) : (logAll l s).epOut0 = s.epOut0 := rfl
@[simp] theorem logAll_epInS (l : List Access) (s : State) : (logAll l s).epInS = s.epInS := rfl
@[simp] theorem logAll_epOutS (l : List Access) (s : State) : (logAll l s).epOutS = s.epOutS := rfl
@[simp] theorem logAll_rxFifo (l : List Access) (s : State) : (logAll l s).rxFifo = s.rxFifo := rfl
@[simp] theorem logAll_txFifo0 (l : List Access) (s : State) : (logAll l s).txFifo0 = s.txFifo0 := rfl
@[simp] theorem logAll_txFifoS (l : List Access) (s : State) : (logAll l s).txFifoS = s.txFifoS := rfl
@[simp] theorem logAll_faults (l : List Access) (s : State) : (logAll l s).faults = s.faults := rfl
@[simp] theorem logAll_setupDoneOwed (l : List Access) (s : State) : (logAll l s).setupDoneOwed = s.setupDoneOwed := rfl
@[simp] theorem logAll_wire (l : List Access) (s : State) : (logAll l s).wire = s.wire := rfl
@[simp] theorem logAll_schedule (l : List Access) (s : State) : (logAll l s).schedule = s.schedule := rfl
@[simp] theorem logAll_accesses (l : List Access) (s : State) : (logAll l s).accesses = s.accesses ++ l := rfl
@[simp] theorem logAccess_eq (a : Access) (s : State) : logAccess a s = logAll [a] s := rfl
@[simp] theorem logAll_nil (s : State) : logAll [] s = s := by simp [logAll]
@[simp] theorem logAll_logAll (l m : List Access) (s : State) : logAll m (logAll l s) = logAll (l ++ m) s := by
  simp [logAll]
@[simp] theorem logAll_ep (l : List Access) (s : State) (d : Dir) (n : Ep) : (logAll l s).ep d n = s.ep d n := by
  cases d <;> cases n <;> rfl
@[simp] theorem logAll_txFifo (l : List Access) (s : State) (n : Ep) : (logAll l s).txFifo n = s.txFifo n := by
  cases n <;> rfl
@[simp] theorem logAll_txDepth (l : List Access) (s : State) (n : Ep) : (logAll l s).txDepth n = s.txDepth n := by
  cases n <;> rfl
@[simp] theorem logAll_store (l : List Access) (s : State) (x : Src) : (logAll l s).store x = s.store x := by
  cases x <;> rfl
@[simp] theorem logAll_setEp (l : List Access) (s : State) (d : Dir) (n : Ep) (r : EpRegs) :
    (logAll l s).setEp d n r = logAll l (s.setEp d n r) := by
  cases d <;> cases n <;> rfl
@[simp] theorem logAll_setTxFifo (l : List Access) (s : State) (n : Ep) (q : List Word) :
    (logAll l s).setTxFifo n q = logAll l (s.setTxFifo n q) := by
  cases n <;> rfl
@[simp] theorem logAll_setRxFifo (l : List Access) (s : State) (q : List Word) :
    (logAll l s).setRxFifo q = logAll l (s.setRxFifo q) := rfl

/-! ## Replacing a FIFO -/

@[simp] theorem setRxFifo_cfg (s : State) (q : List Word) : (s.setRxFifo q).cfg = s.cfg := rfl
@[simp] theorem setRxFifo_setup (s : State) (q : List Word) : (s.setRxFifo q).setup = s.setup := rfl
@[simp] theorem setRxFifo_ctx (s : State) (q : List Word) : (s.setRxFifo q).ctx = s.ctx := rfl
@[simp] theorem setRxFifo_cteState (s : State) (q : List Word) : (s.setRxFifo q).cteState = s.cteState := rfl
@[simp] theorem setRxFifo_streamingEnabled (s : State) (q : List Word) : (s.setRxFifo q).streamingEnabled = s.streamingEnabled := rfl
@[simp] theorem setRxFifo_gctl (s : State) (q : List Word) : (s.setRxFifo q).gctl = s.gctl := rfl
@[simp] theorem setRxFifo_usbrst (s : State) (q : List Word) : (s.setRxFifo q).usbrst = s.usbrst := rfl
@[simp] theorem setRxFifo_enumdne (s : State) (q : List Word) : (s.setRxFifo q).enumdne = s.enumdne := rfl
@[simp] theorem setRxFifo_gintReserved (s : State) (q : List Word) : (s.setRxFifo q).gintReserved = s.gintReserved := rfl
@[simp] theorem setRxFifo_gintmsk (s : State) (q : List Word) : (s.setRxFifo q).gintmsk = s.gintmsk := rfl
@[simp] theorem setRxFifo_rxfsiz (s : State) (q : List Word) : (s.setRxFifo q).rxfsiz = s.rxfsiz := rfl
@[simp] theorem setRxFifo_txfsiz0 (s : State) (q : List Word) : (s.setRxFifo q).txfsiz0 = s.txfsiz0 := rfl
@[simp] theorem setRxFifo_txfsizS (s : State) (q : List Word) : (s.setRxFifo q).txfsizS = s.txfsizS := rfl
@[simp] theorem setRxFifo_devcfg (s : State) (q : List Word) : (s.setRxFifo q).devcfg = s.devcfg := rfl
@[simp] theorem setRxFifo_depmsk (s : State) (q : List Word) : (s.setRxFifo q).depmsk = s.depmsk := rfl
@[simp] theorem setRxFifo_epIn0 (s : State) (q : List Word) : (s.setRxFifo q).epIn0 = s.epIn0 := rfl
@[simp] theorem setRxFifo_epOut0 (s : State) (q : List Word) : (s.setRxFifo q).epOut0 = s.epOut0 := rfl
@[simp] theorem setRxFifo_epInS (s : State) (q : List Word) : (s.setRxFifo q).epInS = s.epInS := rfl
@[simp] theorem setRxFifo_epOutS (s : State) (q : List Word) : (s.setRxFifo q).epOutS = s.epOutS := rfl
@[simp] theorem setRxFifo_txFifo0 (s : State) (q : List Word) : (s.setRxFifo q).txFifo0 = s.txFifo0 := rfl
@[simp] theorem setRxFifo_txFifoS (s : State) (q : List Word) : (s.setRxFifo q).txFifoS = s.txFifoS := rfl
@[simp] theorem setRxFifo_faults (s : State) (q : List Word) : (s.setRxFifo q).faults = s.faults := rfl
@[simp] theorem setRxFifo_setupDoneOwed (s : State) (q : List Word) : (s.setRxFifo q).setupDoneOwed = s.setupDoneOwed := rfl
@[simp] theorem setRxFifo_wire (s : State) (q : List Word) : (s.setRxFifo q).wire = s.wire := rfl
@[simp] theorem setRxFifo_schedule (s : State) (q : List Word) : (s.setRxFifo q).schedule = s.schedule := rfl
@[simp] theorem setRxFifo_accesses (s : State) (q : List Word) : (s.setRxFifo q).accesses = s.accesses := rfl
@[simp] theorem setRxFifo_rxFifo (s : State) (q : List Word) : (s.setRxFifo q).rxFifo = q := rfl
@[simp] theorem setRxFifo_setRxFifo (s : State) (p q : List Word) : (s.setRxFifo p).setRxFifo q = s.setRxFifo q := rfl
@[simp] theorem setRxFifo_self (s : State) : s.setRxFifo s.rxFifo = s := rfl
@[simp] theorem setTxFifo_setTxFifo (s : State) (n : Ep) (p q : List Word) :
    (s.setTxFifo n p).setTxFifo n q = s.setTxFifo n q := by
  cases n <;> rfl
@[simp] theorem setTxFifo_self (s : State) (n : Ep) : s.setTxFifo n (s.txFifo n) = s := by
  cases n <;> rfl
@[simp] theorem setTxFifo_txDepth (s : State) (n m : Ep) (q : List Word) :
    (s.setTxFifo n q).txDepth m = s.txDepth m := by
  cases n <;> cases m <;> rfl

/-! ## Register writes and the updates built from them -/

theorem regWrite_eq (w : RegWrite) (s : State) : regWrite w s = logAll [.write w] (applyWrite w s) := rfl
/-- A register file entry replaced twice. -/
@[simp] theorem setEp_setEp_same (s : State) (d : Dir) (n : Ep) (r t : EpRegs) :
    (s.setEp d n r).setEp d n t = s.setEp d n t := by
  cases d <;> cases n <;> rfl

@[simp] theorem setEp_mpsOf (s : State) (d : Dir) (n m : Ep) (r : EpRegs) :
    (s.setEp d n r).mpsOf m = s.mpsOf m := by
  cases d <;> cases n <;> cases m <;> rfl

@[simp] theorem setEp_store (s : State) (d : Dir) (n : Ep) (r : EpRegs) (x : Src) :
    (s.setEp d n r).store x = s.store x := by
  cases d <;> cases n <;> cases x <;> rfl

@[simp] theorem setEp_txFifo (s : State) (d : Dir) (n m : Ep) (r : EpRegs) :
    (s.setEp d n r).txFifo m = s.txFifo m := by
  cases d <;> cases n <;> cases m <;> rfl

@[simp] theorem setEp_txDepth (s : State) (d : Dir) (n m : Ep) (r : EpRegs) :
    (s.setEp d n r).txDepth m = s.txDepth m := by
  cases d <;> cases n <;> cases m <;> rfl

/-- `RegUpdate(EPCTL)` in closed form: a read and a write, and one entry replaced. -/
theorem updateEpctl_eq (d : Dir) (n : Ep) (f : EpCtlWrite → EpCtlWrite) (s : State) :
    updateEpctl d n f s =
      logAll [.read (.epctl d n), .write (.epctl d n (f (s.ep d n).ctl.writeBack))]
        (s.setEp d n { s.ep d n with
          ctl := ⟨(f (s.ep d n).ctl.writeBack).mps, (s.ep d n).ctl.nak && !(f (s.ep d n).ctl.writeBack).cnak,
            (f (s.ep d n).ctl.writeBack).stall, (f (s.ep d n).ctl.writeBack).enabled⟩ }) := by
  simp [updateEpctl, regWrite_eq, applyWrite]

/-- `arm_in(n, k)` in closed form. -/
theorem armIn_eq (n : Ep) (k : Nat) (s : State) :
    armIn n k s =
      logAll
        [.write (.eptsiz .inp n ⟨1, BitVec.ofNat 19 k⟩), .read (.epctl .inp n),
         .write (.epctl .inp n ⟨(s.ep .inp n).ctl.mps, (s.ep .inp n).ctl.nak, (s.ep .inp n).ctl.stall, true, true⟩)]
        (s.setEp .inp n
          ⟨⟨(s.ep .inp n).ctl.mps, false, (s.ep .inp n).ctl.stall, true⟩, ⟨1, BitVec.ofNat 19 k⟩,
            (s.ep .inp n).xfrc⟩) := by
  simp [armIn, updateEpctl_eq, regWrite_eq, applyWrite, EpCtl.writeBack]

/-- `arm_out(n)` in closed form. -/
theorem armOut_eq (n : Ep) (s : State) :
    armOut n s =
      logAll
        [.write (.eptsiz .out n ⟨1, (s.mpsOf n).setWidth 19⟩), .read (.epctl .out n),
         .write (.epctl .out n ⟨(s.ep .out n).ctl.mps, (s.ep .out n).ctl.nak, (s.ep .out n).ctl.stall, true, true⟩)]
        (s.setEp .out n
          ⟨⟨(s.ep .out n).ctl.mps, false, (s.ep .out n).ctl.stall, true⟩, ⟨1, (s.mpsOf n).setWidth 19⟩,
            (s.ep .out n).xfrc⟩) := by
  simp [armOut, updateEpctl_eq, regWrite_eq, applyWrite, EpCtl.writeBack]

/-- `stall(d, n)` in closed form. -/
theorem stall_eq (d : Dir) (n : Ep) (s : State) :
    stall d n s =
      logAll
        [.read (.epctl d n),
         .write (.epctl d n ⟨(s.ep d n).ctl.mps, (s.ep d n).ctl.nak, true, false, (s.ep d n).ctl.enabled⟩)]
        (s.setEp d n
          ⟨⟨(s.ep d n).ctl.mps, (s.ep d n).ctl.nak, true, (s.ep d n).ctl.enabled⟩, (s.ep d n).tsiz,
            (s.ep d n).xfrc⟩) := by
  simp [stall, updateEpctl_eq, EpCtl.writeBack]

/-- `reset_ep0()` in closed form. -/
theorem resetEp0_eq (s : State) :
    resetEp0 s =
      logAll
        [.write (.eptsiz .inp .ep0 ⟨0, 0⟩), .write (.epctl .inp .ep0 ⟨64, false, false, true, true⟩),
         .write (.eptsiz .out .ep0 ⟨1, 64⟩), .write (.epctl .out .ep0 ⟨64, false, false, true, true⟩)]
        { s with
          epIn0 := ⟨⟨64, false, false, true⟩, ⟨0, 0⟩, s.epIn0.xfrc⟩
          epOut0 := ⟨⟨64, false, false, true⟩, ⟨1, 64⟩, s.epOut0.xfrc⟩ } := by
  have h : ep0Mps = 64 := rfl
  simp [resetEp0, regWrite_eq, applyWrite, EpCtlWrite.armed, h, setEp_inp_ep0, setEp_out_ep0, logAll]

/-- `enable_streaming(mps)` in closed form. -/
theorem enableStreaming_eq (m : BitVec 11) (s : State) :
    enableStreaming m s =
      logAll
        [.write (.epctl .inp .stream ⟨m, false, false, true, true⟩),
         .write (.eptsiz .out .stream ⟨1, m.setWidth 19⟩),
         .write (.epctl .out .stream ⟨m, false, false, true, true⟩)]
        { s with
          epInS := ⟨⟨m, false, false, true⟩, s.epInS.tsiz, s.epInS.xfrc⟩
          epOutS := ⟨⟨m, false, false, true⟩, ⟨1, m.setWidth 19⟩, s.epOutS.xfrc⟩ } := by
  simp [enableStreaming, regWrite_eq, applyWrite, EpCtlWrite.armed, setEp_inp_stream, setEp_out_stream, logAll]

/-- `disable_streaming()` in closed form. -/
theorem disableStreaming_eq (s : State) :
    disableStreaming s =
      logAll
        [.read (.epctl .inp .stream),
         .write (.epctl .inp .stream ⟨s.epInS.ctl.mps, s.epInS.ctl.nak, s.epInS.ctl.stall, false, false⟩),
         .read (.epctl .out .stream),
         .write (.epctl .out .stream ⟨s.epOutS.ctl.mps, s.epOutS.ctl.nak, s.epOutS.ctl.stall, false, false⟩)]
        { s with
          epInS := { s.epInS with ctl := { s.epInS.ctl with enabled := false } }
          epOutS := { s.epOutS with ctl := { s.epOutS.ctl with enabled := false } } } := by
  simp [disableStreaming, updateEpctl_eq, EpCtl.writeBack, setEp_inp_stream, setEp_out_stream, logAll]

/-- `RegUpdate(DEVCFG, {addr})` in closed form. -/
theorem updateAddr_eq (a : BitVec 7) (s : State) :
    updateAddr a s =
      logAll [.read .devcfg, .write (.devcfg { s.devcfg with addr := a })]
        { s with devcfg := { s.devcfg with addr := a } } := by
  simp [updateAddr, regWrite_eq, applyWrite, logAll]

/-! ## Updates of the engine's registers and of the environment -/

@[simp] theorem enterService_cfg (s : State) : (enterService s).cfg = s.cfg := rfl
@[simp] theorem enterService_setup (s : State) : (enterService s).setup = s.setup := rfl
@[simp] theorem enterService_ctx (s : State) : (enterService s).ctx = s.ctx := rfl
@[simp] theorem enterService_cteState (s : State) : (enterService s).cteState = s.cteState := rfl
@[simp] theorem enterService_streamingEnabled (s : State) : (enterService s).streamingEnabled = s.streamingEnabled := rfl
@[simp] theorem enterService_gctl (s : State) : (enterService s).gctl = s.gctl := rfl
@[simp] theorem enterService_usbrst (s : State) : (enterService s).usbrst = s.usbrst := rfl
@[simp] theorem enterService_enumdne (s : State) : (enterService s).enumdne = s.enumdne := rfl
@[simp] theorem enterService_gintReserved (s : State) : (enterService s).gintReserved = s.gintReserved := rfl
@[simp] theorem enterService_gintmsk (s : State) : (enterService s).gintmsk = s.gintmsk := rfl
@[simp] theorem enterService_rxfsiz (s : State) : (enterService s).rxfsiz = s.rxfsiz := rfl
@[simp] theorem enterService_txfsiz0 (s : State) : (enterService s).txfsiz0 = s.txfsiz0 := rfl
@[simp] theorem enterService_txfsizS (s : State) : (enterService s).txfsizS = s.txfsizS := rfl
@[simp] theorem enterService_devcfg (s : State) : (enterService s).devcfg = s.devcfg := rfl
@[simp] theorem enterService_depmsk (s : State) : (enterService s).depmsk = s.depmsk := rfl
@[simp] theorem enterService_epIn0 (s : State) : (enterService s).epIn0 = s.epIn0 := rfl
@[simp] theorem enterService_epOut0 (s : State) : (enterService s).epOut0 = s.epOut0 := rfl
@[simp] theorem enterService_epInS (s : State) : (enterService s).epInS = s.epInS := rfl
@[simp] theorem enterService_epOutS (s : State) : (enterService s).epOutS = s.epOutS := rfl
@[simp] theorem enterService_rxFifo (s : State) : (enterService s).rxFifo = s.rxFifo := rfl
@[simp] theorem enterService_txFifo0 (s : State) : (enterService s).txFifo0 = s.txFifo0 := rfl
@[simp] theorem enterService_txFifoS (s : State) : (enterService s).txFifoS = s.txFifoS := rfl
@[simp] theorem enterService_faults (s : State) : (enterService s).faults = s.faults := rfl
@[simp] theorem enterService_setupDoneOwed (s : State) : (enterService s).setupDoneOwed = s.setupDoneOwed := rfl
@[simp] theorem enterService_wire (s : State) : (enterService s).wire = s.wire := rfl
@[simp] theorem enterService_schedule (s : State) : (enterService s).schedule = s.schedule := rfl
@[simp] theorem enterService_accesses (s : State) : (enterService s).accesses = [.read .gintsts] := rfl

@[simp] theorem recordStale_cfg (s : State) : (recordStale s).cfg = s.cfg := rfl
@[simp] theorem recordStale_setup (s : State) : (recordStale s).setup = s.setup := rfl
@[simp] theorem recordStale_ctx (s : State) : (recordStale s).ctx = s.ctx := rfl
@[simp] theorem recordStale_cteState (s : State) : (recordStale s).cteState = s.cteState := rfl
@[simp] theorem recordStale_streamingEnabled (s : State) : (recordStale s).streamingEnabled = s.streamingEnabled := rfl
@[simp] theorem recordStale_gctl (s : State) : (recordStale s).gctl = s.gctl := rfl
@[simp] theorem recordStale_usbrst (s : State) : (recordStale s).usbrst = s.usbrst := rfl
@[simp] theorem recordStale_enumdne (s : State) : (recordStale s).enumdne = s.enumdne := rfl
@[simp] theorem recordStale_gintReserved (s : State) : (recordStale s).gintReserved = s.gintReserved := rfl
@[simp] theorem recordStale_gintmsk (s : State) : (recordStale s).gintmsk = s.gintmsk := rfl
@[simp] theorem recordStale_rxfsiz (s : State) : (recordStale s).rxfsiz = s.rxfsiz := rfl
@[simp] theorem recordStale_txfsiz0 (s : State) : (recordStale s).txfsiz0 = s.txfsiz0 := rfl
@[simp] theorem recordStale_txfsizS (s : State) : (recordStale s).txfsizS = s.txfsizS := rfl
@[simp] theorem recordStale_devcfg (s : State) : (recordStale s).devcfg = s.devcfg := rfl
@[simp] theorem recordStale_depmsk (s : State) : (recordStale s).depmsk = s.depmsk := rfl
@[simp] theorem recordStale_epIn0 (s : State) : (recordStale s).epIn0 = s.epIn0 := rfl
@[simp] theorem recordStale_epOut0 (s : State) : (recordStale s).epOut0 = s.epOut0 := rfl
@[simp] theorem recordStale_epInS (s : State) : (recordStale s).epInS = s.epInS := rfl
@[simp] theorem recordStale_epOutS (s : State) : (recordStale s).epOutS = s.epOutS := rfl
@[simp] theorem recordStale_rxFifo (s : State) : (recordStale s).rxFifo = s.rxFifo := rfl
@[simp] theorem recordStale_txFifo0 (s : State) : (recordStale s).txFifo0 = s.txFifo0 := rfl
@[simp] theorem recordStale_txFifoS (s : State) : (recordStale s).txFifoS = s.txFifoS := rfl
@[simp] theorem recordStale_setupDoneOwed (s : State) : (recordStale s).setupDoneOwed = s.setupDoneOwed := rfl
@[simp] theorem recordStale_wire (s : State) : (recordStale s).wire = s.wire := rfl
@[simp] theorem recordStale_schedule (s : State) : (recordStale s).schedule = s.schedule := rfl
@[simp] theorem recordStale_accesses (s : State) : (recordStale s).accesses = s.accesses := rfl
@[simp] theorem recordStale_faults (s : State) :
    (recordStale s).faults = { s.faults with txStale := true } := rfl

@[simp] theorem setupReceived_cfg (p : SetupPacket) (s : State) : (setupReceived p s).cfg = s.cfg := rfl
@[simp] theorem setupReceived_streamingEnabled (p : SetupPacket) (s : State) : (setupReceived p s).streamingEnabled = s.streamingEnabled := rfl
@[simp] theorem setupReceived_gctl (p : SetupPacket) (s : State) : (setupReceived p s).gctl = s.gctl := rfl
@[simp] theorem setupReceived_usbrst (p : SetupPacket) (s : State) : (setupReceived p s).usbrst = s.usbrst := rfl
@[simp] theorem setupReceived_enumdne (p : SetupPacket) (s : State) : (setupReceived p s).enumdne = s.enumdne := rfl
@[simp] theorem setupReceived_gintReserved (p : SetupPacket) (s : State) : (setupReceived p s).gintReserved = s.gintReserved := rfl
@[simp] theorem setupReceived_gintmsk (p : SetupPacket) (s : State) : (setupReceived p s).gintmsk = s.gintmsk := rfl
@[simp] theorem setupReceived_rxfsiz (p : SetupPacket) (s : State) : (setupReceived p s).rxfsiz = s.rxfsiz := rfl
@[simp] theorem setupReceived_txfsiz0 (p : SetupPacket) (s : State) : (setupReceived p s).txfsiz0 = s.txfsiz0 := rfl
@[simp] theorem setupReceived_txfsizS (p : SetupPacket) (s : State) : (setupReceived p s).txfsizS = s.txfsizS := rfl
@[simp] theorem setupReceived_devcfg (p : SetupPacket) (s : State) : (setupReceived p s).devcfg = s.devcfg := rfl
@[simp] theorem setupReceived_depmsk (p : SetupPacket) (s : State) : (setupReceived p s).depmsk = s.depmsk := rfl
@[simp] theorem setupReceived_epIn0 (p : SetupPacket) (s : State) : (setupReceived p s).epIn0 = s.epIn0 := rfl
@[simp] theorem setupReceived_epOut0 (p : SetupPacket) (s : State) : (setupReceived p s).epOut0 = s.epOut0 := rfl
@[simp] theorem setupReceived_epInS (p : SetupPacket) (s : State) : (setupReceived p s).epInS = s.epInS := rfl
@[simp] theorem setupReceived_epOutS (p : SetupPacket) (s : State) : (setupReceived p s).epOutS = s.epOutS := rfl
@[simp] theorem setupReceived_rxFifo (p : SetupPacket) (s : State) : (setupReceived p s).rxFifo = s.rxFifo := rfl
@[simp] theorem setupReceived_txFifo0 (p : SetupPacket) (s : State) : (setupReceived p s).txFifo0 = s.txFifo0 := rfl
@[simp] theorem setupReceived_txFifoS (p : SetupPacket) (s : State) : (setupReceived p s).txFifoS = s.txFifoS := rfl
@[simp] theorem setupReceived_faults (p : SetupPacket) (s : State) : (setupReceived p s).faults = s.faults := rfl
@[simp] theorem setupReceived_setupDoneOwed (p : SetupPacket) (s : State) : (setupReceived p s).setupDoneOwed = s.setupDoneOwed := rfl
@[simp] theorem setupReceived_wire (p : SetupPacket) (s : State) : (setupReceived p s).wire = s.wire := rfl
@[simp] theorem setupReceived_schedule (p : SetupPacket) (s : State) : (setupReceived p s).schedule = s.schedule := rfl
@[simp] theorem setupReceived_accesses (p : SetupPacket) (s : State) : (setupReceived p s).accesses = s.accesses := rfl
@[simp] theorem setupReceived_setup (p : SetupPacket) (s : State) : (setupReceived p s).setup = p := rfl
@[simp] theorem setupReceived_ctx (p : SetupPacket) (s : State) :
    (setupReceived p s).ctx = { s.ctx with remaining := 0, zlpPending := false } := rfl
@[simp] theorem setupReceived_cteState (p : SetupPacket) (s : State) :
    (setupReceived p s).cteState = .setupReceived := rfl

@[simp] theorem advance_cfg (k : Nat) (s : State) : (advance k s).cfg = s.cfg := rfl
@[simp] theorem advance_setup (k : Nat) (s : State) : (advance k s).setup = s.setup := rfl
@[simp] theorem advance_cteState (k : Nat) (s : State) : (advance k s).cteState = s.cteState := rfl
@[simp] theorem advance_streamingEnabled (k : Nat) (s : State) : (advance k s).streamingEnabled = s.streamingEnabled := rfl
@[simp] theorem advance_gctl (k : Nat) (s : State) : (advance k s).gctl = s.gctl := rfl
@[simp] theorem advance_usbrst (k : Nat) (s : State) : (advance k s).usbrst = s.usbrst := rfl
@[simp] theorem advance_enumdne (k : Nat) (s : State) : (advance k s).enumdne = s.enumdne := rfl
@[simp] theorem advance_gintReserved (k : Nat) (s : State) : (advance k s).gintReserved = s.gintReserved := rfl
@[simp] theorem advance_gintmsk (k : Nat) (s : State) : (advance k s).gintmsk = s.gintmsk := rfl
@[simp] theorem advance_rxfsiz (k : Nat) (s : State) : (advance k s).rxfsiz = s.rxfsiz := rfl
@[simp] theorem advance_txfsiz0 (k : Nat) (s : State) : (advance k s).txfsiz0 = s.txfsiz0 := rfl
@[simp] theorem advance_txfsizS (k : Nat) (s : State) : (advance k s).txfsizS = s.txfsizS := rfl
@[simp] theorem advance_devcfg (k : Nat) (s : State) : (advance k s).devcfg = s.devcfg := rfl
@[simp] theorem advance_depmsk (k : Nat) (s : State) : (advance k s).depmsk = s.depmsk := rfl
@[simp] theorem advance_epIn0 (k : Nat) (s : State) : (advance k s).epIn0 = s.epIn0 := rfl
@[simp] theorem advance_epOut0 (k : Nat) (s : State) : (advance k s).epOut0 = s.epOut0 := rfl
@[simp] theorem advance_epInS (k : Nat) (s : State) : (advance k s).epInS = s.epInS := rfl
@[simp] theorem advance_epOutS (k : Nat) (s : State) : (advance k s).epOutS = s.epOutS := rfl
@[simp] theorem advance_rxFifo (k : Nat) (s : State) : (advance k s).rxFifo = s.rxFifo := rfl
@[simp] theorem advance_txFifo0 (k : Nat) (s : State) : (advance k s).txFifo0 = s.txFifo0 := rfl
@[simp] theorem advance_txFifoS (k : Nat) (s : State) : (advance k s).txFifoS = s.txFifoS := rfl
@[simp] theorem advance_faults (k : Nat) (s : State) : (advance k s).faults = s.faults := rfl
@[simp] theorem advance_setupDoneOwed (k : Nat) (s : State) : (advance k s).setupDoneOwed = s.setupDoneOwed := rfl
@[simp] theorem advance_wire (k : Nat) (s : State) : (advance k s).wire = s.wire := rfl
@[simp] theorem advance_schedule (k : Nat) (s : State) : (advance k s).schedule = s.schedule := rfl
@[simp] theorem advance_accesses (k : Nat) (s : State) : (advance k s).accesses = s.accesses := rfl

@[simp] theorem record_cfg (e : WireEvent) (s : State) : (record e s).cfg = s.cfg := rfl
@[simp] theorem record_setup (e : WireEvent) (s : State) : (record e s).setup = s.setup := rfl
@[simp] theorem record_ctx (e : WireEvent) (s : State) : (record e s).ctx = s.ctx := rfl
@[simp] theorem record_cteState (e : WireEvent) (s : State) : (record e s).cteState = s.cteState := rfl
@[simp] theorem record_streamingEnabled (e : WireEvent) (s : State) : (record e s).streamingEnabled = s.streamingEnabled := rfl
@[simp] theorem record_gctl (e : WireEvent) (s : State) : (record e s).gctl = s.gctl := rfl
@[simp] theorem record_usbrst (e : WireEvent) (s : State) : (record e s).usbrst = s.usbrst := rfl
@[simp] theorem record_enumdne (e : WireEvent) (s : State) : (record e s).enumdne = s.enumdne := rfl
@[simp] theorem record_gintReserved (e : WireEvent) (s : State) : (record e s).gintReserved = s.gintReserved := rfl
@[simp] theorem record_gintmsk (e : WireEvent) (s : State) : (record e s).gintmsk = s.gintmsk := rfl
@[simp] theorem record_rxfsiz (e : WireEvent) (s : State) : (record e s).rxfsiz = s.rxfsiz := rfl
@[simp] theorem record_txfsiz0 (e : WireEvent) (s : State) : (record e s).txfsiz0 = s.txfsiz0 := rfl
@[simp] theorem record_txfsizS (e : WireEvent) (s : State) : (record e s).txfsizS = s.txfsizS := rfl
@[simp] theorem record_devcfg (e : WireEvent) (s : State) : (record e s).devcfg = s.devcfg := rfl
@[simp] theorem record_depmsk (e : WireEvent) (s : State) : (record e s).depmsk = s.depmsk := rfl
@[simp] theorem record_epIn0 (e : WireEvent) (s : State) : (record e s).epIn0 = s.epIn0 := rfl
@[simp] theorem record_epOut0 (e : WireEvent) (s : State) : (record e s).epOut0 = s.epOut0 := rfl
@[simp] theorem record_epInS (e : WireEvent) (s : State) : (record e s).epInS = s.epInS := rfl
@[simp] theorem record_epOutS (e : WireEvent) (s : State) : (record e s).epOutS = s.epOutS := rfl
@[simp] theorem record_rxFifo (e : WireEvent) (s : State) : (record e s).rxFifo = s.rxFifo := rfl
@[simp] theorem record_txFifo0 (e : WireEvent) (s : State) : (record e s).txFifo0 = s.txFifo0 := rfl
@[simp] theorem record_txFifoS (e : WireEvent) (s : State) : (record e s).txFifoS = s.txFifoS := rfl
@[simp] theorem record_faults (e : WireEvent) (s : State) : (record e s).faults = s.faults := rfl
@[simp] theorem record_setupDoneOwed (e : WireEvent) (s : State) : (record e s).setupDoneOwed = s.setupDoneOwed := rfl
@[simp] theorem record_schedule (e : WireEvent) (s : State) : (record e s).schedule = s.schedule := rfl
@[simp] theorem record_accesses (e : WireEvent) (s : State) : (record e s).accesses = s.accesses := rfl
@[simp] theorem record_wire (e : WireEvent) (s : State) : (record e s).wire = s.wire ++ [e] := rfl

@[simp] theorem appendRx_cfg (ws : List Word) (s : State) : (appendRx ws s).cfg = s.cfg := rfl
@[simp] theorem appendRx_setup (ws : List Word) (s : State) : (appendRx ws s).setup = s.setup := rfl
@[simp] theorem appendRx_ctx (ws : List Word) (s : State) : (appendRx ws s).ctx = s.ctx := rfl
@[simp] theorem appendRx_cteState (ws : List Word) (s : State) : (appendRx ws s).cteState = s.cteState := rfl
@[simp] theorem appendRx_streamingEnabled (ws : List Word) (s : State) : (appendRx ws s).streamingEnabled = s.streamingEnabled := rfl
@[simp] theorem appendRx_gctl (ws : List Word) (s : State) : (appendRx ws s).gctl = s.gctl := rfl
@[simp] theorem appendRx_usbrst (ws : List Word) (s : State) : (appendRx ws s).usbrst = s.usbrst := rfl
@[simp] theorem appendRx_enumdne (ws : List Word) (s : State) : (appendRx ws s).enumdne = s.enumdne := rfl
@[simp] theorem appendRx_gintReserved (ws : List Word) (s : State) : (appendRx ws s).gintReserved = s.gintReserved := rfl
@[simp] theorem appendRx_gintmsk (ws : List Word) (s : State) : (appendRx ws s).gintmsk = s.gintmsk := rfl
@[simp] theorem appendRx_rxfsiz (ws : List Word) (s : State) : (appendRx ws s).rxfsiz = s.rxfsiz := rfl
@[simp] theorem appendRx_txfsiz0 (ws : List Word) (s : State) : (appendRx ws s).txfsiz0 = s.txfsiz0 := rfl
@[simp] theorem appendRx_txfsizS (ws : List Word) (s : State) : (appendRx ws s).txfsizS = s.txfsizS := rfl
@[simp] theorem appendRx_devcfg (ws : List Word) (s : State) : (appendRx ws s).devcfg = s.devcfg := rfl
@[simp] theorem appendRx_depmsk (ws : List Word) (s : State) : (appendRx ws s).depmsk = s.depmsk := rfl
@[simp] theorem appendRx_epIn0 (ws : List Word) (s : State) : (appendRx ws s).epIn0 = s.epIn0 := rfl
@[simp] theorem appendRx_epOut0 (ws : List Word) (s : State) : (appendRx ws s).epOut0 = s.epOut0 := rfl
@[simp] theorem appendRx_epInS (ws : List Word) (s : State) : (appendRx ws s).epInS = s.epInS := rfl
@[simp] theorem appendRx_epOutS (ws : List Word) (s : State) : (appendRx ws s).epOutS = s.epOutS := rfl
@[simp] theorem appendRx_txFifo0 (ws : List Word) (s : State) : (appendRx ws s).txFifo0 = s.txFifo0 := rfl
@[simp] theorem appendRx_txFifoS (ws : List Word) (s : State) : (appendRx ws s).txFifoS = s.txFifoS := rfl
@[simp] theorem appendRx_faults (ws : List Word) (s : State) : (appendRx ws s).faults = s.faults := rfl
@[simp] theorem appendRx_setupDoneOwed (ws : List Word) (s : State) : (appendRx ws s).setupDoneOwed = s.setupDoneOwed := rfl
@[simp] theorem appendRx_wire (ws : List Word) (s : State) : (appendRx ws s).wire = s.wire := rfl
@[simp] theorem appendRx_schedule (ws : List Word) (s : State) : (appendRx ws s).schedule = s.schedule := rfl
@[simp] theorem appendRx_accesses (ws : List Word) (s : State) : (appendRx ws s).accesses = s.accesses := rfl
@[simp] theorem appendRx_rxFifo (ws : List Word) (s : State) : (appendRx ws s).rxFifo = s.rxFifo ++ ws := rfl

end Sys2Proof.Machine
end

