-- ==== Sys2Proof/Laws/Ops.lean ====
section
/-! SUPPORT. One lemma for each shared operation that says everything it can do: the closed form where it answers a
next state, and the stop where it does not. Later proofs cite these and do not unfold the operations. -/

namespace Sys2Proof.Machine

/-! ## Sequencing -/

@[simp] theorem andThen_next {α β : Type} (a : α) (k : α → Result β) : andThen (.next a) k = k a := rfl
@[simp] theorem andThen_fault {α β : Type} (f : Fault) (k : α → Result β) : andThen (.fault f) k = .fault f := rfl
@[simp] theorem andThen_refused {α β : Type} (q : Refusal) (k : α → Result β) :
    andThen (.refused q) k = .refused q := rfl

/-- A sequence answers a next state exactly when both parts do. -/
theorem andThen_eq_next {α β : Type} {r : Result α} {k : α → Result β} {b : β} :
    andThen r k = .next b ↔ ∃ a, r = .next a ∧ k a = .next b := by
  cases r <;> simp [andThen]

/-- Sequencing is associative. -/
theorem andThen_assoc {α β γ : Type} (r : Result α) (k : α → Result β) (l : β → Result γ) :
    andThen (andThen r k) l = andThen r (fun a => andThen (k a) l) := by
  cases r <;> rfl

/-! ## Bytes and words -/

@[simp] theorem wordBytes_length (w : Word) : (wordBytes w).length = 4 := rfl

/-- A word unpacks to the four bytes it was packed from. -/
theorem wordBytes_leWord (a b c d : Byte) : wordBytes (leWord a b c d) = [a, b, c, d] := by
  unfold wordBytes leWord
  simp only [List.cons.injEq, and_true]
  refine ⟨?_, ?_, ?_, ?_⟩ <;>
    · apply BitVec.eq_of_getLsbD_eq
      intro i hi
      simp only [BitVec.getLsbD_extractLsb', BitVec.getLsbD_append, hi, decide_true, Bool.true_and]
      split_ifs <;> first | omega | (congr 1; omega)

/-- As many words are packed as hold the bytes. -/
theorem packLanes_length (x : Word) (bs : List Byte) : (packLanes x bs).length = ceil4 bs.length := by
  induction bs using packLanes.induct with
  | case1 => rfl
  | case2 => simp [packLanes, ceil4]
  | case3 => simp [packLanes, ceil4]
  | case4 => simp [packLanes, ceil4]
  | case5 a b c d rest ih => simp [packLanes, ih, ceil4]; omega

@[simp] theorem packBytes_length (bs : List Byte) : (packBytes bs).length = ceil4 bs.length :=
  packLanes_length 0 bs

/-! ## Packet FIFO Access -/

/-- `PopRx()` on a queue with a head. -/
theorem popRx_cons {s : State} {w : Word} {rest : List Word} (h : s.rxFifo = w :: rest) :
    popRx s = .next (w, logAll [.popRx w] (s.setRxFifo rest)) := by
  simp [popRx, h]

/-- `PopRx()` on an empty queue. -/
theorem popRx_nil {s : State} (h : s.rxFifo = []) :
    popRx s = .fault (.rxUnderflow { s with faults := { s.faults with rxUnderflow := true } }) := by
  simp [popRx, h]

/-- Enough words: exactly `k` leave the queue, in order. -/
theorem popWords_eq (k : Nat) (s : State) (h : k ≤ s.rxFifo.length) :
    popWords k s =
      .next (s.rxFifo.take k,
        logAll ((s.rxFifo.take k).map Access.popRx) (s.setRxFifo (s.rxFifo.drop k))) := by
  induction k generalizing s with
  | zero => simp [popWords]
  | succ k ih =>
    match hq : s.rxFifo with
    | [] => simp [hq] at h
    | w :: rest =>
      simp only [popWords, popRx_cons hq, andThen_next]
      rw [ih _ (by simpa [hq] using h)]
      simp

/-- Too few words: `F_RX_UNDERFLOW` is recorded and the step stops, the queue empty. -/
theorem popWords_underflow (k : Nat) (s : State) (h : s.rxFifo.length < k) :
    ∃ u, popWords k s = .fault (.rxUnderflow u) ∧ u.faults = { s.faults with rxUnderflow := true } ∧
      u.rxFifo = [] := by
  induction k generalizing s with
  | zero => omega
  | succ k ih =>
    match hq : s.rxFifo with
    | [] =>
      exact ⟨{ s with faults := { s.faults with rxUnderflow := true } },
        by rw [popWords, popRx_nil hq, andThen_fault], rfl, hq⟩
    | w :: rest =>
      simp only [popWords, popRx_cons hq, andThen_next]
      obtain ⟨u, hu, hf, hr⟩ := ih (logAll [.popRx w] (s.setRxFifo rest)) (by simpa [hq] using h)
      exact ⟨u, by rw [hu, andThen_fault], hf, hr⟩

/-- `pop_bytes(n)` with enough words. -/
theorem popBytes_eq (n : Nat) (s : State) (h : ceil4 n ≤ s.rxFifo.length) :
    popBytes n s =
      .next (unpackBytes n (s.rxFifo.take (ceil4 n)),
        logAll ((s.rxFifo.take (ceil4 n)).map Access.popRx) (s.setRxFifo (s.rxFifo.drop (ceil4 n)))) := by
  simp [popBytes, popWords_eq _ _ h]

/-- `drain(n)` with enough words. -/
theorem drain_eq (n : Nat) (s : State) (h : ceil4 n ≤ s.rxFifo.length) :
    drain n s =
      .next (logAll ((s.rxFifo.take (ceil4 n)).map Access.popRx) (s.setRxFifo (s.rxFifo.drop (ceil4 n)))) := by
  simp [drain, popWords_eq _ _ h]

/-- A push where there is room. -/
theorem pushTx_room (n : Ep) (w : Word) (s : State) (h : (s.txFifo n).length < s.txDepth n) :
    pushTx n w s = .next (logAll [.pushTx n w] (s.setTxFifo n (s.txFifo n ++ [w]))) := by
  simp [pushTx, Nat.not_le.mpr h]

/-- A push into a full queue. -/
theorem pushTx_full (n : Ep) (w : Word) (s : State) (h : s.txDepth n ≤ (s.txFifo n).length) :
    pushTx n w s = .fault (.txOverflow n { s with faults := s.faults.recordOverflow n }) := by
  simp [pushTx, h]

/-- Room for all: the words are appended in order. -/
theorem pushWords_eq (n : Ep) (ws : List Word) (s : State)
    (h : ws = [] ∨ (s.txFifo n).length + ws.length ≤ s.txDepth n) :
    pushWords n ws s =
      .next (logAll (ws.map (Access.pushTx n)) (s.setTxFifo n (s.txFifo n ++ ws))) := by
  induction ws generalizing s with
  | nil => simp [pushWords]
  | cons w rest ih =>
    have hroom : (s.txFifo n).length + (rest.length + 1) ≤ s.txDepth n := by simpa using h
    simp only [pushWords]
    rw [pushTx_room n w s (by omega), andThen_next, ih _ (Or.inr (by simp; omega))]
    simp

/-- No room for all: `F_TX_OVERFLOW(n)` is recorded and the step stops; nothing else than the queue and the access list
has changed. -/
theorem pushWords_overflow (n : Ep) (ws : List Word) (s : State) (hne : ws ≠ [])
    (h : s.txDepth n < (s.txFifo n).length + ws.length) :
    ∃ u l q, pushWords n ws s = .fault (.txOverflow n u) ∧
      u = { logAll l (s.setTxFifo n q) with faults := s.faults.recordOverflow n } := by
  induction ws generalizing s with
  | nil => exact absurd rfl hne
  | cons w rest ih =>
    by_cases hfull : s.txDepth n ≤ (s.txFifo n).length
    · refine ⟨_, [], s.txFifo n, ?_, rfl⟩
      rw [pushWords, pushTx_full n w s hfull, andThen_fault]
      simp
    · have hrest : rest ≠ [] := by
        rintro rfl
        simp at h
        omega
      simp only [pushWords]
      rw [pushTx_room n w s (by omega), andThen_next]
      obtain ⟨u, l, q, hu, he⟩ := ih (logAll [.pushTx n w] (s.setTxFifo n (s.txFifo n ++ [w]))) hrest
        (by simp at h ⊢; omega)
      refine ⟨u, [.pushTx n w] ++ l, q, hu, ?_⟩
      rw [he]
      simp only [logAll_setTxFifo, logAll_logAll, setTxFifo_setTxFifo]
      cases n <;> rfl

/-- Bytes inside the descriptor: they are read in order and nothing else changes. -/
theorem readDesc_eq (src : Src) (off k : Nat) (s : State) (h : k = 0 ∨ off + k ≤ (s.store src).length) :
    readDesc src off k s =
      .next (((s.store src).drop off).take k,
        logAll ((List.range k).map (fun i => Access.desc src (off + i))) s) := by
  induction k generalizing s off with
  | zero => simp [readDesc]
  | succ k ih =>
    have hlen : off + (k + 1) ≤ (s.store src).length := by simpa using h
    have hoff : off < (s.store src).length := by omega
    simp only [readDesc, List.getElem?_eq_getElem hoff]
    rw [ih _ _ (Or.inr (by simp; omega))]
    simp only [andThen_next, logAccess_eq, logAll_logAll, logAll_store, List.drop_eq_getElem_cons hoff,
      List.take_succ_cons, List.range_succ_eq_map, List.map_cons, List.map_map, Nat.add_zero]
    congr 3
    simp only [List.cons_append, List.nil_append, List.cons.injEq, true_and]
    apply List.map_congr_left
    intro i _
    simp only [Function.comp, Access.desc.injEq, true_and]
    omega

/-- Bytes past the end of the descriptor: the step stops. -/
theorem readDesc_overrun (src : Src) (off k : Nat) (s : State) (hk : k ≠ 0)
    (h : (s.store src).length < off + k) : ∃ u, readDesc src off k s = .fault (.descOverrun u) := by
  induction k generalizing s off with
  | zero => exact absurd rfl hk
  | succ k ih =>
    by_cases hoff : off < (s.store src).length
    · simp only [readDesc, List.getElem?_eq_getElem hoff]
      obtain ⟨u, hu⟩ := ih (off + 1) (logAccess (.desc src off) s) (by omega) (by simp; omega)
      exact ⟨u, by rw [hu, andThen_fault]⟩
    · exact ⟨s, by simp [readDesc, List.getElem?_eq_none (Nat.not_lt.mp hoff)]⟩

/-! ## Control Transfer Engine -/

/-- The accesses of `send_in_packet`'s data: the descriptor bytes from `off` on, then the words pushed. -/
def dataAccesses (src : Src) (off : Nat) (bs : List Byte) : List Access :=
  (List.range bs.length).map (fun i => Access.desc src (off + i)) ++ (packBytes bs).map (Access.pushTx .ep0)

/-- The state after a packet of `bs` is armed on endpoint 0 IN and its words are pushed (42_control_transfer_engine.md
rule R176), the stale mark left aside. -/
def sentBody (src : Src) (off : Nat) (bs : List Byte) (s : State) : State :=
  logAll (dataAccesses src off bs) ((armIn .ep0 bs.length s).setTxFifo .ep0 (s.txFifo0 ++ packBytes bs))

/-- The state after `send_in_packet` of `bs`. -/
def sent (src : Src) (off : Nat) (bs : List Byte) (s : State) : State :=
  sentBody src off bs (markStale bs.length s)

/-- `send_in_packet` as one record update. -/
theorem sent_eq (src : Src) (off : Nat) (bs : List Byte) (s : State) :
    sent src off bs s =
      { s with
        epIn0 := s.epIn0.armed (BitVec.ofNat 19 bs.length)
        txFifo0 := s.txFifo0 ++ packBytes bs
        faults := staleFaults s.faults bs.length s.txFifo0
        accesses := s.accesses ++ packetAccesses s.epIn0 src off bs } := by
  by_cases h : 0 < bs.length ∧ s.txFifo0 ≠ []
  · simp [sent, sentBody, markStale, if_pos h, recordStale, staleFaults, armIn_eq, packetAccesses, armAccesses,
      dataAccesses, EpRegs.armed, logAll, setEp_inp_ep0, setTxFifo_ep0]
  · simp [sent, sentBody, markStale, if_neg h, staleFaults, armIn_eq, packetAccesses, armAccesses, dataAccesses,
      EpRegs.armed, logAll, setEp_inp_ep0, setTxFifo_ep0]

/-- The streaming half of `on_in_endpoint` as one record update. -/
theorem scanInStream_eq (s : State) :
    scanInStream s =
      { s with
        epInS := s.epInS.acknowledged
        accesses := s.accesses ++ streamScanAccesses s.epInS } := by
  by_cases h : s.epInS.xfrc = true
  · simp [scanInStream, streamScanAccesses, h, regWrite_eq, applyWrite, EpRegs.acknowledged, logAll, setEp_inp_stream]
  · have hself : s.epInS.acknowledged = s.epInS := by
      cases hr : s.epInS
      simp_all [EpRegs.acknowledged]
    simp [scanInStream, streamScanAccesses, h, hself, logAll]

/-- The endpoint 0 half of `on_in_endpoint`: read the flag, and if it is set acknowledge it and continue the transfer. -/
theorem scanIn0_eq (s : State) :
    scanIn0 s =
      if s.epIn0.xfrc then
        inComplete
          { s with
            epIn0 := s.epIn0.acknowledged
            accesses := s.accesses ++ [.read (.epint .inp .ep0), .write (.epint .inp .ep0 true)] }
      else .next { s with accesses := s.accesses ++ [.read (.epint .inp .ep0)] } := by
  by_cases h : s.epIn0.xfrc = true
  · simp [scanIn0, h, regWrite_eq, applyWrite, setEp_inp_ep0, EpRegs.acknowledged, logAll]
  · simp [scanIn0, h, logAll]

theorem markStale_cases (k : Nat) (s : State) : markStale k s = s ∨ markStale k s = recordStale s := by
  unfold markStale
  split
  · exact Or.inr rfl
  · exact Or.inl rfl

@[simp] theorem markStale_cfg (k : Nat) (s : State) : (markStale k s).cfg = s.cfg := by
  rcases markStale_cases k s with h | h <;> simp [h]

@[simp] theorem markStale_txFifo0 (k : Nat) (s : State) : (markStale k s).txFifo0 = s.txFifo0 := by
  rcases markStale_cases k s with h | h <;> simp [h]

@[simp] theorem markStale_store (k : Nat) (s : State) (x : Src) : (markStale k s).store x = s.store x := by
  cases x <;> simp

@[simp] theorem markStale_zero (s : State) : markStale 0 s = s := by simp [markStale]

@[simp] theorem armIn_store (n : Ep) (k : Nat) (s : State) (x : Src) : (armIn n k s).store x = s.store x := by
  simp [armIn_eq]

@[simp] theorem armIn_txFifo (n m : Ep) (k : Nat) (s : State) : (armIn n k s).txFifo m = s.txFifo m := by
  simp [armIn_eq]

@[simp] theorem armIn_txFifo0 (n : Ep) (k : Nat) (s : State) : (armIn n k s).txFifo0 = s.txFifo0 :=
  armIn_txFifo n .ep0 k s

@[simp] theorem armIn_txDepth (n m : Ep) (k : Nat) (s : State) : (armIn n k s).txDepth m = s.txDepth m := by
  simp [armIn_eq]

/-- The body of `send_in_packet`: a packet inside the descriptor with room in the TX FIFO. -/
theorem sendBody_eq (k : Nat) (src : Src) (off : Nat) (s : State)
    (hd : k = 0 ∨ off + k ≤ (s.store src).length)
    (hr : k = 0 ∨ s.txFifo0.length + ceil4 k ≤ s.cfg.txFifoDepth0.toNat) :
    andThen (readDesc src off k (armIn .ep0 k s)) (fun r => pushBytes .ep0 r.1 r.2) =
      .next (sentBody src off (((s.store src).drop off).take k) s) := by
  have hlen : (((s.store src).drop off).take k).length = k := by
    simp only [List.length_take, List.length_drop]
    omega
  rw [readDesc_eq src off k _ (by rw [armIn_store]; exact hd), andThen_next, armIn_store]
  unfold pushBytes
  generalize ((s.store src).drop off).take k = bs at hlen
  subst hlen
  rw [pushWords_eq]
  · simp [sentBody, dataAccesses]
  · rcases hr with hk | hk
    · left
      rw [List.length_eq_zero_iff.mp hk]
      rfl
    · right
      rw [logAll_txFifo, logAll_txDepth, armIn_txFifo, armIn_txDepth, packBytes_length]
      exact hk

/-- A packet inside the descriptor with room in the TX FIFO is sent. -/
theorem sendInPacket_eq (k : Nat) (src : Src) (off : Nat) (s : State)
    (hd : k = 0 ∨ off + k ≤ (s.store src).length)
    (hr : k = 0 ∨ s.txFifo0.length + ceil4 k ≤ s.cfg.txFifoDepth0.toNat) :
    sendInPacket k src off s = .next (sent src off (((s.store src).drop off).take k) s) := by
  have hlen : (((s.store src).drop off).take k).length = k := by
    simp only [List.length_take, List.length_drop]
    omega
  unfold sendInPacket sent
  rw [sendBody_eq k src off (markStale k s) (by simpa using hd) (by simpa using hr), hlen, markStale_store]

/-- A zero-length packet is always sent; nothing is read and nothing pushed. -/
theorem sendZeroLength_eq (s : State) : sendZeroLength s = .next (armIn .ep0 0 s) := by
  unfold sendZeroLength
  rw [sendInPacket_eq 0 _ _ _ (Or.inl rfl) (Or.inl rfl)]
  have h : (armIn .ep0 0 s).setTxFifo .ep0 s.txFifo0 = armIn .ep0 0 s := by
    have := setTxFifo_self (armIn .ep0 0 s) .ep0
    rwa [armIn_txFifo] at this
  simp [sent, sentBody, dataAccesses, packBytes, packLanes, h]

/-- A status response: a zero-length packet and `StatusPending`. -/
theorem sendStatus_eq (s : State) :
    sendStatus s = .next { armIn .ep0 0 s with cteState := .statusPending } := by
  simp [sendStatus, sendZeroLength_eq]

/-- A chunk inside the descriptor with room in the TX FIFO is sent and the context advanced. -/
theorem sendChunk_eq (s : State)
    (hd : s.ctx.chunk = 0 ∨ s.ctx.offset.toNat + s.ctx.chunk ≤ (s.store s.ctx.src).length)
    (hr : s.ctx.chunk = 0 ∨ s.txFifo0.length + ceil4 s.ctx.chunk ≤ s.cfg.txFifoDepth0.toNat) :
    sendChunk s =
      .next (advance s.ctx.chunk
        (sent s.ctx.src s.ctx.offset.toNat
          (((s.store s.ctx.src).drop s.ctx.offset.toNat).take s.ctx.chunk) s)) := by
  unfold sendChunk
  rw [sendInPacket_eq _ _ _ _ hd hr, andThen_next]

/-- The same as one record update, over the configuration's store. -/
theorem sendChunk_record (s : State)
    (hd : s.ctx.chunk = 0 ∨ s.ctx.offset.toNat + s.ctx.chunk ≤ (storeOf s.cfg s.ctx.src).length)
    (hr : s.ctx.chunk = 0 ∨ s.txFifo0.length + ceil4 s.ctx.chunk ≤ s.cfg.txFifoDepth0.toNat) :
    sendChunk s =
      .next { s with
        ctx := (advance s.ctx.chunk s).ctx
        epIn0 := s.epIn0.armed (BitVec.ofNat 19 s.ctx.chunk)
        txFifo0 := s.txFifo0 ++ packBytes (((storeOf s.cfg s.ctx.src).drop s.ctx.offset.toNat).take s.ctx.chunk)
        faults := staleFaults s.faults s.ctx.chunk s.txFifo0
        accesses := s.accesses ++ packetAccesses s.epIn0 s.ctx.src s.ctx.offset.toNat
          (((storeOf s.cfg s.ctx.src).drop s.ctx.offset.toNat).take s.ctx.chunk) } := by
  have hlen : (((storeOf s.cfg s.ctx.src).drop s.ctx.offset.toNat).take s.ctx.chunk).length = s.ctx.chunk := by
    simp only [List.length_take, List.length_drop]
    omega
  rw [sendChunk_eq s hd hr, store_eq, sent_eq, hlen]
  rfl

/-- A packet of data without room in the TX FIFO stops the step with `F_TX_OVERFLOW(0)` recorded; the packet is armed and
marked, and nothing else than the queue and the access list has changed. -/
theorem sendInPacket_overflow (k : Nat) (src : Src) (off : Nat) (s : State) (hk : k ≠ 0)
    (hd : off + k ≤ (s.store src).length)
    (hr : s.cfg.txFifoDepth0.toNat < s.txFifo0.length + ceil4 k) :
    ∃ u l q, sendInPacket k src off s = .fault (.txOverflow .ep0 u) ∧
      u = { logAll l ((armIn .ep0 k (markStale k s)).setTxFifo .ep0 q) with
        faults := (armIn .ep0 k (markStale k s)).faults.recordOverflow .ep0 } := by
  have hlen : (((s.store src).drop off).take k).length = k := by
    simp only [List.length_take, List.length_drop]
    omega
  have hne : packBytes (((s.store src).drop off).take k) ≠ [] := by
    intro h0
    have := packBytes_length (((s.store src).drop off).take k)
    rw [h0, hlen] at this
    simp [ceil4] at this
    omega
  unfold sendInPacket
  rw [readDesc_eq src off k _ (Or.inr (by simpa using hd)), andThen_next, armIn_store, markStale_store]
  unfold pushBytes
  obtain ⟨u, l, q, hu, he⟩ := pushWords_overflow .ep0 (packBytes (((s.store src).drop off).take k))
    (logAll ((List.range k).map (fun i => Access.desc src (off + i))) (armIn .ep0 k (markStale k s))) hne
    (by
      rw [logAll_txFifo, logAll_txDepth, armIn_txFifo, armIn_txDepth, packBytes_length, hlen]
      simpa using hr)
  refine ⟨u, (List.range k).map (fun i => Access.desc src (off + i)) ++ l, q, hu, ?_⟩
  rw [he]
  simp only [logAll_setTxFifo, logAll_logAll, logAll_faults]

end Sys2Proof.Machine
end

