-- ==== Sys2Proof/Laws/Memory.lean ====
section
/-! SUPPORT. The FIFOs keep their form: every operation on them, of the engine and of the environment, keeps
`Memory.wf`, and the state after reset has it (10_state.md rules R49, R50). -/

namespace Sys2Proof.Machine

/-- `Memory.wf` in words. -/
theorem memory_wf_iff (s : State) :
    Memory.wf s = true ↔
      s.rxFifo.length ≤ s.cfg.rxFifoDepth.toNat ∧ s.txFifo0.length ≤ s.cfg.txFifoDepth0.toNat ∧
      s.txFifoS.length ≤ s.cfg.txFifoDepthS.toNat ∧ 1 ≤ s.cfg.devDesc.length ∧ s.cfg.devDesc.length ≤ 65535 ∧
      1 ≤ s.cfg.cfgDesc.length ∧ s.cfg.cfgDesc.length ≤ 65535 := by
  simp [Memory.wf, and_assoc]

/-- The form looks at the FIFOs' lengths and the configuration alone. -/
theorem memory_wf_of_eq {s t : State} (hc : t.cfg = s.cfg) (hr : t.rxFifo.length ≤ s.rxFifo.length)
    (h0 : t.txFifo0.length ≤ s.txFifo0.length) (hS : t.txFifoS.length ≤ s.txFifoS.length)
    (h : Memory.wf s = true) : Memory.wf t = true := by
  rw [memory_wf_iff] at *
  rw [hc]
  omega

@[simp] theorem memory_wf_logAll (l : List Access) (s : State) : Memory.wf (logAll l s) = Memory.wf s := rfl

@[simp] theorem memory_wf_setEp (s : State) (d : Dir) (n : Ep) (r : EpRegs) :
    Memory.wf (s.setEp d n r) = Memory.wf s := by
  cases d <;> cases n <;> rfl

/-- `PopRx()` keeps the form. -/
theorem popRx_memory_wf {s t : State} {w : Word} (h : popRx s = .next (w, t)) (hw : Memory.wf s = true) :
    Memory.wf t = true := by
  match hq : s.rxFifo with
  | [] => simp [popRx_nil hq] at h
  | v :: rest =>
    rw [popRx_cons hq] at h
    injection h with h
    injection h with _ h
    subst h
    rw [memory_wf_logAll]
    refine memory_wf_of_eq (s := s) rfl ?_ (Nat.le_refl _) (Nat.le_refl _) hw
    simp [hq]

/-- `PushTx(n, w)` keeps the form: it stops on a full queue. -/
theorem pushTx_memory_wf {s t : State} {n : Ep} {w : Word} (h : pushTx n w s = .next t) (hw : Memory.wf s = true) :
    Memory.wf t = true := by
  by_cases hfull : s.txDepth n ≤ (s.txFifo n).length
  · simp [pushTx_full n w s hfull] at h
  · rw [pushTx_room n w s (by omega)] at h
    injection h with h
    subst h
    rw [memory_wf_logAll, memory_wf_iff] at *
    cases n <;> simp_all [setTxFifo_ep0, setTxFifo_stream]

/-- A register write keeps the form. -/
theorem applyWrite_memory_wf (w : RegWrite) (s : State) : Memory.wf (applyWrite w s) = Memory.wf s := by
  cases w with
  | gintsts | gintmsk | rxfsiz | devcfg | depmsk => rfl
  | txfsiz n => cases n <;> rfl
  | epctl d n => exact memory_wf_setEp ..
  | eptsiz d n => exact memory_wf_setEp ..
  | epint d n => exact memory_wf_setEp ..

/-- Words appended to the RX FIFO where there is room for them keep the form. -/
theorem appendRx_memory_wf (ws : List Word) (s : State) (hroom : rxRoom s ws.length = true)
    (hw : Memory.wf s = true) : Memory.wf (appendRx ws s) = true := by
  rw [memory_wf_iff] at *
  simp [rxRoom] at hroom
  simp only [appendRx, List.length_append]
  omega

/-- Every step of the environment keeps the form. -/
theorem envStep_memory_wf (e : EnvStep) (s : State) (hw : Memory.wf s = true) : Memory.wf (envStep e s) = true := by
  cases e with
  | busReset => exact hw
  | enumDone => exact hw
  | setup p x =>
    simp only [envStep, envSetup]
    split
    · rename_i h
      exact appendRx_memory_wf [_, _, _] _ (by simpa using (Bool.and_eq_true _ _ ▸ h).2) hw
    · exact hw
  | setupDone x =>
    simp only [envStep, envSetupDone]
    split
    · rename_i h
      exact appendRx_memory_wf [_] _ (by simpa using (Bool.and_eq_true _ _ ▸ h).2) hw
    · exact hw
  | inToken n =>
    simp only [envStep, envIn]
    split
    · exact hw
    · split
      · exact hw
      · change Memory.wf (State.setEp _ _ _ _) = true
        rw [memory_wf_setEp]
        refine memory_wf_of_eq (s := s) ?_ ?_ ?_ ?_ hw <;> cases n <;> simp [setTxFifo_ep0, setTxFifo_stream]
  | outPacket n bytes x =>
    simp only [envStep, envOut]
    split
    · exact hw
    · split
      · exact hw
      · rename_i h
        change Memory.wf (State.setEp _ _ _ _) = true
        rw [memory_wf_setEp]
        refine appendRx_memory_wf _ _ ?_ hw
        simp [outNotReady] at h
        simpa [packLanes_length, Nat.add_comm] using h.2
  | other code epnum x =>
    simp only [envStep, envOther]
    split
    · rename_i h
      exact appendRx_memory_wf [_] _ (by simpa using (Bool.and_eq_true _ _ ▸ h).2) hw
    · exact hw

/-- The memories have their form after power-on in every admissible configuration. -/
theorem powerOn_memory_wf (c : Config) (h : c.wf = true) : Memory.wf (State.powerOn c) = true := by
  simp only [Config.wf, Bool.and_eq_true, decide_eq_true_eq] at h
  rw [memory_wf_iff]
  refine ⟨Nat.zero_le _, Nat.zero_le _, Nat.zero_le _, ?_, ?_, ?_, ?_⟩ <;> simp only [State.powerOn] <;> tauto

/-- The memories have their form after reset. -/
theorem reset_memory_wf : Memory.wf State.reset = true := by decide +kernel

end Sys2Proof.Machine
end

