-- ==== Sys2Proof/Laws/PerInstr.lean ====
section
/-! SUPPORT. A family of statements made for each constructor of `Instr`: an event's encoding has the length of its format
(30_encoding.md rule R100). -/

namespace Sys2Proof.Laws.EncodeLength

/-- The encoding of an event has as many bytes as its format (30_encoding.md rule R100). -/
def Statement (i : Instr) : Prop := ∀ c : Config, (encode c i).length = i.format.bytes

theorem usbrst : Statement Instr.usbrst := fun _ => rfl
theorem rxflvl : Statement Instr.rxflvl := fun _ => rfl
theorem enumdne : Statement Instr.enumdne := fun _ => rfl
theorem iepint : Statement Instr.iepint := fun _ => rfl
theorem setupRx (st : RxStatus) : Statement (Instr.setupRx st) := fun _ => rfl
theorem setupDone (st : RxStatus) : Statement (Instr.setupDone st) := fun _ => rfl
theorem outRx (st : RxStatus) : Statement (Instr.outRx st) := fun _ => rfl
theorem pktstsOther (st : RxStatus) : Statement (Instr.pktstsOther st) := fun _ => rfl
theorem getDescriptorDevice (p : SetupPacket) : Statement (Instr.getDescriptorDevice p) := fun _ => rfl
theorem getDescriptorConfiguration (p : SetupPacket) : Statement (Instr.getDescriptorConfiguration p) := fun _ => rfl
theorem getDescriptorOther (p : SetupPacket) : Statement (Instr.getDescriptorOther p) := fun _ => rfl
theorem setAddress (p : SetupPacket) : Statement (Instr.setAddress p) := fun _ => rfl
theorem setConfiguration (p : SetupPacket) : Statement (Instr.setConfiguration p) := fun _ => rfl
theorem setInterfaceAsOff (p : SetupPacket) : Statement (Instr.setInterfaceAsOff p) := fun _ => rfl
theorem setInterfaceAsOn (p : SetupPacket) : Statement (Instr.setInterfaceAsOn p) := fun _ => rfl
theorem setInterfaceOther (p : SetupPacket) : Statement (Instr.setInterfaceOther p) := fun _ => rfl
theorem unsupportedRequest (p : SetupPacket) : Statement (Instr.unsupportedRequest p) := fun _ => rfl

end Sys2Proof.Laws.EncodeLength
end

