-- ==== Sys2Proof/Laws/Step.lean ====
section
/-! SUPPORT. What a step can be, said once, and the two inductions every claim about runs needs: over the events of one
service step and over the steps of a run. -/

namespace Sys2Proof.Machine

@[simp] theorem runEvents_nil (s : State) : runEvents [] s = .next s := rfl

theorem runEvents_cons (i : Instr) (is : List Instr) (s : State) :
    runEvents (i :: is) s = andThen (exec i s) (runEvents is) := rfl

/-- A property every event keeps is kept by a list of events. -/
theorem runEvents_keeps {P : State → Prop} (hP : ∀ i s t, P s → exec i s = .next t → P t) (is : List Instr)
    (s t : State) (hs : P s) (h : runEvents is s = .next t) : P t := by
  induction is generalizing s with
  | nil =>
    injection h with h
    exact h ▸ hs
  | cons i is ih =>
    obtain ⟨u, hu, ht⟩ := andThen_eq_next.mp h
    exact ih u (hP i s u hs hu) ht

/-- What a step that answers a next state is: a move of the environment, a service step on the state with the schedule
that remains, or a move that is dropped. -/
theorem step_cases {s t : State} (h : step s = .next t) :
    (∃ e rest, s.schedule = .env e :: rest ∧ t = envStep e { s with schedule := rest }) ∨
    (∃ rest, s.irq = true ∧ service { s with schedule := rest } = .next t) ∨
    (∃ rest, t = { s with schedule := rest }) := by
  unfold step at h
  split at h
  · rename_i hs
    split at h
    · rename_i hi
      exact Or.inr (Or.inl ⟨s.schedule, hi, h⟩)
    · injection h with h
      exact Or.inr (Or.inr ⟨s.schedule, h.symm⟩)
  · rename_i e rest hs
    injection h with h
    exact Or.inl ⟨e, rest, hs, h.symm⟩
  · rename_i rest hs
    split at h
    · rename_i hi
      exact Or.inr (Or.inl ⟨rest, hi, h⟩)
    · injection h with h
      exact Or.inr (Or.inr ⟨rest, h.symm⟩)
  · rename_i rest hs
    split at h
    · rename_i hi
      exact Or.inr (Or.inl ⟨s.schedule, hi, h⟩)
    · injection h with h
      exact Or.inr (Or.inr ⟨rest, h.symm⟩)

/-- A property every step of a machine keeps is kept by its runs. -/
theorem run_keeps (M : Host.Core) {P : M.State → Prop} (hP : ∀ s t, P s → M.step s = .next t → P t) (k : Nat)
    (s t : M.State) (hs : P s) (h : M.run k s = .next t) : P t := by
  induction k generalizing s with
  | zero =>
    injection h with h
    exact h ▸ hs
  | succ k ih =>
    rw [Host.Core.run] at h
    split at h
    · rename_i u hu
      exact ih u (hP s u hs hu) h
    · cases h
    · cases h

/-- Which events a `GINTSTS` word has. -/
theorem mem_gintstsEvents_usbrst (m : RegMap) (g : Word) :
    Instr.usbrst ∈ gintstsEvents m g ↔ g.getLsbD m.usbrst = true := by
  simp [gintstsEvents]
theorem mem_gintstsEvents_rxflvl (m : RegMap) (g : Word) :
    Instr.rxflvl ∈ gintstsEvents m g ↔ g.getLsbD m.rxflvl = true := by
  simp [gintstsEvents]
theorem mem_gintstsEvents_enumdne (m : RegMap) (g : Word) :
    Instr.enumdne ∈ gintstsEvents m g ↔ g.getLsbD m.enumdne = true := by
  simp [gintstsEvents]
theorem mem_gintstsEvents_iepint (m : RegMap) (g : Word) :
    Instr.iepint ∈ gintstsEvents m g ↔ g.getLsbD m.iepint = true := by
  simp [gintstsEvents]

/-- The four bits of the mask are its bits. -/
theorem gintMask_getLsbD {m : RegMap} (h : m.wf = true) (j : Nat) :
    m.gintMask.getLsbD j =
      (decide (m.usbrst = j) || decide (m.rxflvl = j) || decide (m.enumdne = j) || decide (m.iepint = j)) := by
  obtain ⟨h1, h2, h3, h4, -⟩ := RegMap.gint_apart h
  simp [RegMap.gintMask, bitAt_getLsbD, h1, h2, h3, h4, -BitVec.getLsbD_eq_getElem]

/-- The four flags of the `GINTSTS` word, read back. -/
theorem gintsts_usbrst {s : State} (h : s.cfg.regmap.wf = true) : s.gintsts.getLsbD s.cfg.regmap.usbrst = s.usbrst := by
  obtain ⟨h1, h2, h3, h4, h5⟩ := RegMap.gint_apart h
  simp [State.gintsts, bitAt_getLsbD, gintMask_getLsbD h, h1, h2, h3, h4, h5.1, Ne.symm h5.2.2.2.1,
    Ne.symm h5.2.2.2.2.1, -BitVec.getLsbD_eq_getElem]
theorem gintsts_rxflvl {s : State} (h : s.cfg.regmap.wf = true) : s.gintsts.getLsbD s.cfg.regmap.rxflvl = s.rxflvl := by
  obtain ⟨h1, h2, h3, h4, h5⟩ := RegMap.gint_apart h
  simp [State.gintsts, bitAt_getLsbD, gintMask_getLsbD h, h1, h2, h3, h4, Ne.symm h5.1, Ne.symm h5.2.1,
    Ne.symm h5.2.2.1, -BitVec.getLsbD_eq_getElem]
theorem gintsts_enumdne {s : State} (h : s.cfg.regmap.wf = true) :
    s.gintsts.getLsbD s.cfg.regmap.enumdne = s.enumdne := by
  obtain ⟨h1, h2, h3, h4, h5⟩ := RegMap.gint_apart h
  simp [State.gintsts, bitAt_getLsbD, gintMask_getLsbD h, h1, h2, h3, h4, h5.2.1, h5.2.2.2.1,
    Ne.symm h5.2.2.2.2.2, -BitVec.getLsbD_eq_getElem]
theorem gintsts_iepint {s : State} (h : s.cfg.regmap.wf = true) : s.gintsts.getLsbD s.cfg.regmap.iepint = s.iepint := by
  obtain ⟨h1, h2, h3, h4, h5⟩ := RegMap.gint_apart h
  simp [State.gintsts, bitAt_getLsbD, gintMask_getLsbD h, h1, h2, h3, h4, h5.2.2.1, h5.2.2.2.2.1, h5.2.2.2.2.2,
    -BitVec.getLsbD_eq_getElem]

end Sys2Proof.Machine
end

