-- ==== Sys2Proof/Tests/Slice0.lean ====
section
/-! SUPPORT. Tests: the well-formedness checks refuse an ill-formed term each; words written out from
30_encoding.md and 95_test_vectors.md decode to their events; one step of each event against the vectors' values; the
words on the register port; and a concrete state for every statement that has hypotheses. Expected values are those of
95_test_vectors.md (the vector is named) or follow from the rule named. -/

namespace Sys2Proof.Tests

open Sys2Proof Sys2Proof.Machine

/-! ## Helpers -/

/-- A field of the next state, if there is one. -/
def after {α : Type} (r : Result State) (f : State → α) : Option α :=
  match r with
  | .next t => some (f t)
  | .fault _ => none
  | .refused _ => none

/-- A field of the state a stop carries. -/
def stopped {α : Type} (r : Result State) (f : State → α) : Option α :=
  match r with
  | .fault (.rxUnderflow u) => some (f u)
  | .fault (.txOverflow _ u) => some (f u)
  | .fault (.descOverrun u) => some (f u)
  | .fault (.completionWhileDecoding u) => some (f u)
  | .next _ => none
  | .refused _ => none

/-- The words an access list writes to registers, in order. -/
def portWords (l : List Access) : List Word :=
  l.filterMap fun a =>
    match a with
    | .write w => some (w.toWord RegMap.default)
    | .read _ | .popRx _ | .pushTx _ _ | .desc _ _ => none

/-- The state after the prologue of 95_test_vectors.md section 3. -/
def ready : State :=
  { State.reset with
    epIn0 := ⟨⟨64, false, false, true⟩, ⟨0, 0⟩, false⟩
    epOut0 := ⟨⟨64, false, false, true⟩, ⟨1, 64⟩, false⟩ }

/-- `ready` with a SETUP packet accepted: NAK in both directions (45_environment.md rule R263). -/
def asked : State :=
  { ready with
    epIn0 := ⟨⟨64, true, false, true⟩, ⟨0, 0⟩, false⟩
    epOut0 := ⟨⟨64, true, false, true⟩, ⟨1, 64⟩, false⟩ }

/-- In the middle of a response: `CFG`, 128 of 150 bytes sent, the packet taken by the host (vector V78). -/
def sending : State :=
  { ready with
    setup := ⟨0x80, 0x06, 0x0200, 0, 255⟩
    ctx := ⟨.cfg, 128, 22, 64, false⟩
    cteState := .txInProgress
    epIn0 := ⟨⟨64, true, false, true⟩, ⟨0, 0⟩, true⟩ }

/-- Streaming on (vector V61). -/
def streaming : State :=
  { ready with
    streamingEnabled := true
    epInS := ⟨⟨192, false, false, true⟩, ⟨0, 0⟩, false⟩
    epOutS := ⟨⟨192, false, false, true⟩, ⟨1, 192⟩, false⟩ }

/-- Words that fill TX FIFO 0 to `n`. -/
def stale (n : Nat) (s : State) : State := { s with txFifo0 := List.replicate n 0x43424140 }

/-- The SETUP packets of the vectors. -/
def getDevice : SetupPacket := ⟨0x80, 0x06, 0x0100, 0x0000, 0x0040⟩
def getConfig : SetupPacket := ⟨0x80, 0x06, 0x0200, 0x0000, 0x00FF⟩
def getString : SetupPacket := ⟨0x80, 0x06, 0x0300, 0x0000, 0x00FF⟩
def getStatus : SetupPacket := ⟨0x80, 0x00, 0x0000, 0x0000, 0x0002⟩

def noBits : AnyBits := ⟨0, 0, 0, 0⟩

/-! ## Well-formedness refuses -/

theorem test_wf_setupRx : (Instr.setupRx ⟨0, 8, 0, 0b0100, 0, 0⟩).wf Config.default = false := by decide
theorem test_wf_setupDone : (Instr.setupDone ⟨0, 0, 0, 0b0110, 0, 0⟩).wf Config.default = false := by decide
theorem test_wf_outRx : (Instr.outRx ⟨0, 0, 0, 0b0011, 0, 0⟩).wf Config.default = false := by decide
theorem test_wf_pktstsOther : (Instr.pktstsOther ⟨0, 0, 0, 0b0010, 0, 0⟩).wf Config.default = false := by decide
theorem test_wf_device : (Instr.getDescriptorDevice getConfig).wf Config.default = false := by decide
theorem test_wf_configuration : (Instr.getDescriptorConfiguration getString).wf Config.default = false := by decide
theorem test_wf_other : (Instr.getDescriptorOther getDevice).wf Config.default = false := by decide
theorem test_wf_address : (Instr.setAddress ⟨0, 0x09, 5, 0, 0⟩).wf Config.default = false := by decide
theorem test_wf_setConfiguration : (Instr.setConfiguration ⟨0, 0x05, 1, 0, 0⟩).wf Config.default = false := by decide
theorem test_wf_off : (Instr.setInterfaceAsOff ⟨1, 0x0B, 1, 1, 0⟩).wf Config.default = false := by decide
theorem test_wf_on : (Instr.setInterfaceAsOn ⟨1, 0x0B, 0x0100, 1, 0⟩).wf Config.default = false := by decide
theorem test_wf_onRecipient : (Instr.setInterfaceAsOn ⟨0, 0x0B, 1, 1, 0⟩).wf Config.default = false := by decide
theorem test_wf_interfaceOther : (Instr.setInterfaceOther ⟨1, 0x0B, 0, 1, 0⟩).wf Config.default = false := by decide
theorem test_wf_unsupported : (Instr.unsupportedRequest ⟨0, 0x05, 5, 0, 0⟩).wf Config.default = false := by decide
theorem test_wf_typeCheck :
    (Instr.setAddress ⟨0x20, 0x05, 5, 0, 0⟩).wf { Config.default with reqTypeCheck := .standardOnly } = false := by
  decide

/-- A configuration with descriptors of one byte, for the checks on configurations. -/
def small : Config := { Config.default with devDesc := [0], cfgDesc := [0] }

theorem test_config_small : small.wf = true := by decide
theorem test_config_endpoint : ({ small with epStream := 0 } : Config).wf = false := by decide
theorem test_config_alternate : ({ small with asAltActive := 0 } : Config).wf = false := by decide
theorem test_config_rxDepth : ({ small with rxFifoDepth := 19 } : Config).wf = false := by decide
theorem test_config_txDepth : ({ small with txFifoDepth0 := 15 } : Config).wf = false := by decide
theorem test_config_device : ({ small with devDesc := [] } : Config).wf = false := by decide
theorem test_config_configuration : ({ small with cfgDesc := [] } : Config).wf = false := by decide
theorem test_config_codes : ({ small with pktstsOutRx := 0b0110 } : Config).wf = false := by decide

/-- A layout that agrees with the default one nowhere but in widths (rule R10: any positions). -/
def moved : RegMap where
  rxflvl := 0
  usbrst := 1
  enumdne := 2
  iepint := 3
  epnum := 28
  bcnt := 0
  dpid := 11
  pktsts := 13
  frmnum := 20
  rxDepth := 16
  txStart := 16
  txDepth := 0
  speed := 30
  addr := 0
  xfrcMask := 5
  mps := 21
  nak := 0
  stall := 1
  cnak := 2
  enabled := 3
  xfrsiz := 13
  pktcnt := 0
  xfrc := 31
  fullSpeed := 0b01

theorem test_layout_default : RegMap.default.wf = true ∧ moved.wf = true := by decide
theorem test_layout_gint : ({ moved with iepint := 0 } : RegMap).wf = false := by decide
theorem test_layout_rxsts : ({ moved with epnum := 10 } : RegMap).wf = false := by decide
theorem test_layout_epctl : ({ moved with mps := 22 } : RegMap).wf = false := by decide
theorem test_layout_masks :                                                     -- rules R101, R103
    RegMap.default.gintMask = 0x00043010 ∧ RegMap.default.rxstsMask = 0x01FFFFFF := by decide
theorem test_config_layout : ({ small with regmap := { moved with addr := 31 } } : Config).wf = false := by decide
theorem test_config_address :
    ({ small with regAddr := [(.gctl, 0x008), (.rxFifo, 0x1000), (.gctl, 0x00C)] } : Config).wf = false ∧
      ({ small with regAddr := [(.gctl, 0x008), (.rxFifo, 0x1000), (.txFifo .ep0, 0x1000)] } : Config).wf = true := by
  decide
theorem test_wf_reserved : (Instr.setupDone ⟨0, 0, 0, 0b0100, 0, 0x01000000⟩).wf Config.default = false := by decide

/-! ## Decoding words of the vectors -/

theorem test_decode_usbrst : decodeGintsts RegMap.default 0x00001000 = .event .usbrst := by decide          -- V10
theorem test_decode_rxflvl : decodeGintsts RegMap.default 0x00000010 = .event .rxflvl := by decide          -- V11
theorem test_decode_enumdne : decodeGintsts RegMap.default 0x00002000 = .event .enumdne := by decide        -- V12
theorem test_decode_iepint : decodeGintsts RegMap.default 0x00040000 = .event .iepint := by decide          -- V13
theorem test_decode_all :                                                                   -- V15
    gintstsEvents RegMap.default 0x00043010 = [.usbrst, .rxflvl, .enumdne, .iepint] := by decide
theorem test_decode_none : decodeGintsts RegMap.default 0xFFFBCFEF = .rejected .noEvent := by decide        -- V17
theorem test_decode_several : decodeGintsts RegMap.default 0x00003000 = .rejected .severalEvents := by decide -- V14

theorem test_decode_setupRx :                                                               -- V25
    decodeRxsts Config.default 0x00AD0080 = .setupRx ⟨0, 8, 0b10, 0b0110, 5, 0⟩ := by decide
theorem test_decode_setupDone :                                                             -- V19
    decodeRxsts Config.default 0x00080000 = .setupDone ⟨0, 0, 0, 0b0100, 0, 0⟩ := by decide
theorem test_decode_outRx :                                                                 -- V26
    decodeRxsts Config.default 0xFFE40030 = .outRx ⟨0, 3, 0, 0b0010, 0xF, 0xFE000000⟩ := by decide
theorem test_decode_pktstsOther :                                                           -- V24
    decodeRxsts Config.default 0x00060000 = .pktstsOther ⟨0, 0, 0, 0b0011, 0, 0⟩ := by decide

/-- Decode the eight bytes of a SETUP packet under the default parameters. -/
def decodeBytes (bs : List Byte) : Decoded := decode Config.default .setup bs

theorem test_decode_device :                                                                -- V29
    decodeBytes [0x80, 0x06, 0x00, 0x01, 0x00, 0x00, 0x40, 0x00] = .event (.getDescriptorDevice getDevice) := by decide
theorem test_decode_deviceIndex :                                                           -- V32
    decodeBytes [0x80, 0x06, 0x05, 0x01, 0x09, 0x04, 0x12, 0x00] =
      .event (.getDescriptorDevice ⟨0x80, 0x06, 0x0105, 0x0409, 0x0012⟩) := by decide
theorem test_decode_configuration :                                                         -- V30
    decodeBytes [0x80, 0x06, 0x00, 0x02, 0x00, 0x00, 0xFF, 0x00] = .event (.getDescriptorConfiguration getConfig) := by
  decide
theorem test_decode_other :                                                                 -- V31
    decodeBytes [0x80, 0x06, 0x00, 0x03, 0x00, 0x00, 0xFF, 0x00] = .event (.getDescriptorOther getString) := by decide
theorem test_decode_address :                                                               -- V36
    decodeBytes [0x00, 0x05, 0x05, 0x00, 0x00, 0x00, 0x00, 0x00] = .event (.setAddress ⟨0, 5, 5, 0, 0⟩) := by decide
theorem test_decode_setConfiguration :                                                      -- V37
    decodeBytes [0x00, 0x09, 0x01, 0x00, 0x00, 0x00, 0x00, 0x00] = .event (.setConfiguration ⟨0, 9, 1, 0, 0⟩) := by decide
theorem test_decode_off :                                                                   -- V38
    decodeBytes [0x01, 0x0B, 0x00, 0x00, 0x01, 0x00, 0x00, 0x00] = .event (.setInterfaceAsOff ⟨1, 0x0B, 0, 1, 0⟩) := by
  decide
theorem test_decode_on :                                                                    -- V40
    decodeBytes [0x01, 0x0B, 0x01, 0x00, 0x01, 0x00, 0x08, 0x00] = .event (.setInterfaceAsOn ⟨1, 0x0B, 1, 1, 8⟩) := by
  decide
theorem test_decode_interfaceOther :                                                        -- V41
    decodeBytes [0x01, 0x0B, 0x00, 0x01, 0x01, 0x00, 0x00, 0x00] =
      .event (.setInterfaceOther ⟨1, 0x0B, 0x0100, 1, 0⟩) := by decide
theorem test_decode_unsupported :                                                           -- V42
    decodeBytes [0x00, 0x0B, 0x01, 0x00, 0x01, 0x00, 0x00, 0x00] =
      .event (.unsupportedRequest ⟨0, 0x0B, 1, 1, 0⟩) := by decide
theorem test_decode_typeCheck :                                                             -- V34
    decodeSetup { Config.default with reqTypeCheck := .standardOnly } ⟨0xA1, 0x06, 0x0100, 0, 0x12⟩ =
      .unsupportedRequest ⟨0xA1, 0x06, 0x0100, 0, 0x12⟩ := by decide
theorem test_decode_recipientCheck :                                                        -- V42
    decodeSetup { Config.default with setifRecipientCheck := false } ⟨0, 0x0B, 1, 1, 0⟩ =
      .setInterfaceAsOn ⟨0, 0x0B, 1, 1, 0⟩ := by decide
theorem test_decode_wrongLength : decodeBytes [0x80, 0x06] = .rejected (.wrongLength .setup 2) := by decide

/-! ## Bytes and words -/

theorem test_pack_padded : packBytes [0x12, 0x01, 0x00, 0x02, 0xEF, 0x02] = [0x02000112, 0x000002EF] := by decide -- V6
theorem test_pack_single : packBytes [0xAB] = [0x000000AB] := by decide                       -- V7
theorem test_unpack : unpackBytes 5 [0x44332211, 0xAAAAAA55] = [0x11, 0x22, 0x33, 0x44, 0x55] := by decide -- V5

/-! ## One step of each event -/

theorem test_usbrst :                                                                       -- V97
    after (exec .usbrst { streaming with devcfg := ⟨0b11, 5⟩, usbrst := true, cteState := .txInProgress })
      (fun t => (t.devcfg, t.epIn0, t.epOut0.tsiz)) =
      some (⟨0b11, 0⟩, ⟨⟨64, false, false, true⟩, ⟨0, 0⟩, false⟩, ⟨1, 64⟩) := by decide
theorem test_usbrst_streaming :                                                             -- V97
    after (exec .usbrst { streaming with usbrst := true, cteState := .txInProgress })
      (fun t => (t.cteState, t.streamingEnabled, t.epInS.ctl, t.epOutS.ctl.enabled, t.usbrst)) =
      some (.idle, false, ⟨192, false, false, false⟩, false, false) := by decide
theorem test_enumdne :                                                                      -- section 2.2
    after (exec .enumdne { ready with enumdne := true }) (fun t => (t.enumdne, portWords t.accesses)) =
      some (false, [0x00002000]) := by decide
theorem test_rxflvl :                                                                       -- PRG6 line 9
    after (exec .rxflvl { ready with rxFifo := [0x00060000, 0x00080000] }) (fun t => t.rxFifo) =
      some [0x00080000] := by decide
theorem test_rxflvl_underflow :                                                             -- V100
    stopped (exec .rxflvl { ready with rxFifo := [0x000C0080, 0x01000680] }) (fun u => (u.faults.rxUnderflow, u.rxFifo)) =
      some (true, []) := by decide
theorem test_setupRx :                                                                      -- V27
    after (exec (.setupRx ⟨3, 16, 0, 0b0110, 0, 0⟩) { asked with rxFifo := [0x00050500, 0x00000000, 0x00080000] })
      (fun t => (t.rxFifo, t.devcfg.addr, t.cteState)) = some ([0x00080000], 5, .statusPending) := by decide
theorem test_setupDone :                                                                    -- V59
    after (exec (.setupDone ⟨0, 0, 0, 0b0100, 0, 0⟩) { asked with epOut0 := ⟨⟨64, true, true, true⟩, ⟨0, 0⟩, false⟩ })
      (fun t => (t.epOut0, portWords t.accesses)) =
      some (⟨⟨64, false, true, true⟩, ⟨1, 64⟩, false⟩, [0x00080040, 0x84220040]) := by decide
theorem test_outRx_off :                                                                    -- V22
    after (exec (.outRx ⟨1, 3, 0, 0b0010, 0, 0⟩) { ready with rxFifo := [0xAA030201, 0x00080000] })
      (fun t => (t.rxFifo, t.accesses)) = some ([0x00080000], [.popRx 0xAA030201]) := by decide
theorem test_outRx_on :                                                                     -- V21, a shorter packet
    after (exec (.outRx ⟨1, 3, 0, 0b0010, 0, 0⟩)
        { streaming with rxFifo := [0x00030201], epOutS := ⟨⟨192, true, false, true⟩, ⟨0, 0⟩, false⟩ })
      (fun t => (t.rxFifo, t.epOutS)) = some ([], ⟨⟨192, false, false, true⟩, ⟨1, 192⟩, false⟩) := by decide
theorem test_pktstsOther :                                                                  -- V28
    after (exec (.pktstsOther ⟨0, 8, 0, 0b0011, 0, 0⟩) { ready with rxFifo := [1, 2] }) (fun t => t.rxFifo) =
      some [1, 2] := by decide
theorem test_iepint_chunk :                                                                 -- V78
    after (exec .iepint sending) (fun t => (t.ctx, t.epIn0.tsiz, t.txFifo0)) =
      some (⟨.cfg, 150, 0, 64, false⟩, ⟨1, 22⟩,
        [0x83828180, 0x87868584, 0x8B8A8988, 0x8F8E8D8C, 0x93929190, 0x00009594]) := by decide +kernel
theorem test_iepint_end :                                                                   -- V80
    after (exec .iepint { sending with ctx := ⟨.cfg, 150, 0, 64, false⟩ }) (fun t => (t.cteState, t.epIn0.xfrc)) =
      some (.idle, false) := by decide
theorem test_getDescriptorDevice :                                                          -- V65
    after (exec (.getDescriptorDevice getDevice) asked) (fun t => (t.ctx, t.epIn0, t.txFifo0)) =
      some (⟨.dev, 18, 0, 64, false⟩, ⟨⟨64, false, false, true⟩, ⟨1, 18⟩, false⟩,
        [0x02000112, 0x400102EF, 0x56781234, 0x02010100, 0x00000103]) := by decide +kernel
theorem test_getDescriptorDevice_stale :                                                    -- V101
    after (exec (.getDescriptorDevice getDevice) (stale 16 asked)) (fun t => (t.faults, t.txFifo0.length)) =
      some (⟨false, false, false, true⟩, 21) := by decide +kernel
theorem test_getDescriptorConfiguration :                                                   -- V66
    after (exec (.getDescriptorConfiguration getConfig) asked) (fun t => (t.ctx, t.epIn0.tsiz, t.txFifo0.take 2)) =
      some (⟨.cfg, 64, 86, 64, false⟩, ⟨1, 64⟩, [0x00960209, 0x80000102]) := by decide +kernel
theorem test_getDescriptorConfiguration_multiple :                                          -- V49
    after (exec (.getDescriptorConfiguration ⟨0x80, 0x06, 0x0200, 0, 64⟩) asked) (fun t => t.ctx) =
      some ⟨.cfg, 64, 0, 64, true⟩ := by decide +kernel
theorem test_getDescriptorOther :                                                           -- V74
    after (exec (.getDescriptorOther getString) asked) (fun t => (t.epIn0.ctl, t.epOut0.ctl.stall, t.cteState)) =
      some (⟨64, true, true, true⟩, false, .idle) := by decide
theorem test_setAddress :                                                                   -- V68
    after (exec (.setAddress ⟨0, 5, 0x1234, 0, 0⟩) asked) (fun t => (t.devcfg, t.epIn0.tsiz, t.cteState)) =
      some (⟨0b11, 0x34⟩, ⟨1, 0⟩, .statusPending) := by decide
theorem test_setConfiguration :                                                             -- V69
    after (exec (.setConfiguration ⟨0, 9, 7, 0, 0⟩) asked) (fun t => (t.epIn0, t.cteState, portWords t.accesses)) =
      some (⟨⟨64, false, false, true⟩, ⟨1, 0⟩, false⟩, .statusPending, [0x00080000, 0x84020040]) := by decide
theorem test_setInterfaceAsOff :                                                            -- V71
    after (exec (.setInterfaceAsOff ⟨1, 0x0B, 0, 1, 0⟩) streaming)
      (fun t => (t.streamingEnabled, t.epInS.ctl, t.epOutS)) =
      some (false, ⟨192, false, false, false⟩, ⟨⟨192, false, false, false⟩, ⟨1, 192⟩, false⟩) := by decide
theorem test_setInterfaceAsOn :                                                             -- V70
    after (exec (.setInterfaceAsOn ⟨1, 0x0B, 1, 1, 0⟩) asked) (fun t => (t.streamingEnabled, t.epInS, t.epOutS)) =
      some (true, ⟨⟨192, false, false, true⟩, ⟨0, 0⟩, false⟩, ⟨⟨192, false, false, true⟩, ⟨1, 192⟩, false⟩) := by decide
theorem test_setInterfaceOther :                                                            -- V72
    after (exec (.setInterfaceOther ⟨1, 0x0B, 2, 1, 0⟩) streaming)
      (fun t => (t.streamingEnabled, t.epInS, t.epIn0.tsiz, t.cteState)) =
      some (true, streaming.epInS, ⟨1, 0⟩, .statusPending) := by decide
theorem test_unsupportedRequest :                                                           -- V73
    after (exec (.unsupportedRequest getStatus) asked) (fun t => (t.epIn0.ctl, t.epOut0.ctl, t.txFifo0, t.cteState)) =
      some (⟨64, true, true, true⟩, ⟨64, true, true, true⟩, [], .idle) := by decide

/-! ## The step, the environment, the port -/

/-- A bare SETUP word of the opcode table is decoded, and the step that fetches it runs it (V36). -/
theorem test_table_word : decodeTableWord 64 0x50500 = some (.setAddress ⟨0, 5, 5, 0, 0⟩) := by decide
theorem test_fetch_word :
    after (step (State.reset.withFetchWord 64 0x50500)) (fun t => (t.devcfg.addr, t.cteState)) =
      some (5, .statusPending) := by decide

/-- In another layout the words differ and the events do not (decision D3): SET_ADDRESS(5). -/
def movedQueued : State :=
  { ready with
    cfg := { Config.default with regmap := moved }
    rxFifo := [0x0000C008, 0x00050500, 0x00000000] }

theorem test_moved_step : after (step movedQueued) (fun t => (t.devcfg.addr, t.cteState)) = some (5, .statusPending) := by
  decide
theorem test_moved_words :
    movedQueued.regWord .gintsts = 0x00000001 ∧ movedQueued.regWord (.epctl .inp .ep0) = 0x08000008 := by decide

theorem test_env_setup :                                                                    -- V85
    (envStep (.setup getDevice noBits) ready).rxFifo = [0x000C0080, 0x01000680, 0x00400000] := by decide
theorem test_env_setup_refused : envStep (.setup getDevice noBits) State.reset = State.reset := by decide +kernel -- V86
theorem test_env_in :                                                                       -- V90
    (envStep (.inToken .ep0) { ready with epIn0 := ⟨⟨64, false, false, true⟩, ⟨1, 0⟩, false⟩ }).wire =
      [.inData .ep0 []] := by decide
theorem test_env_out :                                                                      -- V91
    (fun t => (t.rxFifo, t.epOut0, t.wire)) (envStep (.outPacket .ep0 [] noBits) ready) =
      ([0x00040000], ⟨⟨64, true, false, true⟩, ⟨0, 0⟩, false⟩, [.outAck .ep0 []]) := by decide

theorem test_port_resetEp0 :                                                                -- V57
    portWords (resetEp0 State.reset).accesses = [0x00000000, 0x84000040, 0x00080040, 0x84000040] := by decide
theorem test_port_enableStreaming :                                                         -- V61
    portWords (enableStreaming 192 State.reset).accesses = [0x840000C0, 0x000800C0, 0x840000C0] := by decide
theorem test_port_disableStreaming :                                                        -- V63
    portWords (disableStreaming State.reset).accesses = [0x00020000, 0x00020000] := by decide
theorem test_port_stall_word : portWords (stall .inp .ep0 asked).accesses = [0x80220040] := by decide -- V64
theorem test_read_epctl : asked.regWord (.epctl .inp .ep0) = 0x80020040 := by decide         -- section 0
theorem test_read_gintsts :                                                                 -- V16
    ({ sending with rxFifo := [0x000C0080] } : State).regWord .gintsts = 0x00040010 := by decide

/-! ## Witnesses: a concrete state for the hypotheses of every statement that has some -/

/-- `ready` with one data word behind an OUT status word. -/
def outQueued : State := { ready with rxFifo := [0x00040030, 0x00030201] }

/-- `ready` with a whole SETUP entry queued and nothing else pending. -/
def setupQueued : State := { ready with rxFifo := [0x000C0080, 0x00050500, 0x00000000] }

/-- `sending` with TX FIFO 0 filled so far that the next chunk of 22 bytes just fits, or just does not. -/
def sendingFull (n : Nat) : State := stale n sending

theorem witness_EncodeThenDecodeGivesTheEvent :
    Config.default.regmap.wf = true ∧ (Instr.setAddress ⟨0, 5, 5, 0, 0⟩).wf Config.default = true ∧
      (Instr.setupRx ⟨0, 8, 0b10, 0b0110, 5, 0xFE000000⟩).wf Config.default = true := by decide
theorem witness_PortWordCarriesTheFields : moved.wf = true := by decide
/-- The two layout hypotheses of the interrupt bits: a bit at either end of the word. -/
theorem witness_UsbrstResult_EnumdneResult :
    ({ moved with usbrst := 31, enumdne := 0, rxflvl := 30 } : RegMap).wf = true := by decide
theorem witness_RegisterAccessKinds :
    movedQueued.cfg.regmap.wf = true ∧ RegName.rxfsiz ≠ .gintsts ∧ (∀ d n, RegName.rxfsiz ≠ .epctl d n) ∧
      (∀ d n, RegName.rxfsiz ≠ .epint d n) := by
  refine ⟨by decide, by decide, fun d n => by cases d <;> cases n <;> decide, fun d n => by cases d <;> cases n <;> decide⟩
theorem witness_DecodeThenEncodeGivesTheBytes :
    decode Config.default .rxsts [0x80, 0x00, 0xAD, 0x00] = .event (.setupRx ⟨0, 8, 0b10, 0b0110, 5, 0⟩) := by decide
theorem witness_DecodeThenEncodeGivesTheBytes_gintsts :
    decode Config.default .gintsts [0xEF, 0xDF, 0xFB, 0xFF] = .event .usbrst := by decide
theorem witness_EveryWordDecodes :
    ([0, 0, 0, 0] : List Byte).length = 4 ∧ ([0, 0, 0, 0, 0, 0, 0, 0] : List Byte).length = 8 := by decide
theorem witness_StepRuns_service :
    ({ setupQueued with schedule := [.service] } : State).schedule = .service :: [] ∧ setupQueued.irq = true := by decide
theorem witness_StepRuns_serviceLow :
    ({ ready with schedule := [.service] } : State).schedule = .service :: [] ∧ ready.irq = false := by decide
theorem witness_StepRuns_serviceAll :
    ({ setupQueued with schedule := [.serviceAll] } : State).schedule = .serviceAll :: [] ∧ setupQueued.irq = true := by
  decide
theorem witness_StepRuns_serviceAllLow :
    ({ ready with schedule := [.serviceAll] } : State).schedule = .serviceAll :: [] ∧ ready.irq = false := by decide
theorem witness_StepRuns_env :
    ({ ready with schedule := [.env .busReset] } : State).schedule = .env .busReset :: [] := by decide
theorem witness_StepRuns_empty :
    setupQueued.schedule = [] ∧ setupQueued.irq = true ∧ ready.schedule = [] ∧ ready.irq = false := by decide
theorem witness_StepRuns_next : (after (exec .enumdne ready) fun t => t.enumdne) = some false := by decide
theorem witness_StepRuns_fault : (stopped (exec .rxflvl ready) fun u => u.rxFifo) = some [] := by decide
theorem witness_FetchedWordsSelectTheEvent :
    setupQueued.rxFifo = 0x000C0080 :: [0x00050500, 0x00000000] ∧
      ({ ready with rxFifo := [0x00050500, 0x00000000] } : State).rxFifo = 0x00050500 :: 0x00000000 :: [] := by decide
theorem witness_RxflvlTakesOneEntry :
    outQueued.rxFifo = 0x00040030 :: [0x00030201] ∧ entryData outQueued.cfg 0x00040030 = 1 ∧
      (stale 16 outQueued).txFifo0.length + 16 ≤ outQueued.cfg.txFifoDepth0.toNat := by decide
theorem witness_InterruptLineIsMaskedStatus :
    setupQueued.cfg.regmap.wf = true ∧
      ({ setupQueued with schedule := [.service] } : State).schedule = .service :: [] := by decide
theorem witness_IepintWithoutEndpoint0Completion : ready.epIn0.xfrc = false := by decide
theorem witness_IepintCompletionEndsTheTransfer_idle :
    ({ sending with cteState := .idle } : State).epIn0.xfrc = true ∧
      ({ sending with cteState := .idle } : State).cteState = .idle := by decide
theorem witness_IepintCompletionEndsTheTransfer_status :
    ({ sending with cteState := .statusPending } : State).epIn0.xfrc = true ∧
      ({ sending with cteState := .statusPending } : State).cteState = .statusPending := by decide
theorem witness_IepintCompletionEndsTheTransfer_last :
    let s : State := { sending with ctx := ⟨.cfg, 150, 0, 64, false⟩ }
    s.epIn0.xfrc = true ∧ s.cteState = .txInProgress ∧ s.ctx.remaining = 0 ∧ s.ctx.zlpPending = false := by decide
/-- The boundary: the last 22 bytes of 150, and the last words of room. -/
theorem witness_IepintCompletionSendsTheNextChunk :
    let s := sendingFull 26
    s.epIn0.xfrc = true ∧ s.cteState = .txInProgress ∧ s.ctx.remaining ≠ 0 ∧
      s.ctx.offset.toNat + min s.ctx.mps.toNat s.ctx.remaining.toNat = (s.store s.ctx.src).length ∧
      s.txFifo0.length + ceil4 (min s.ctx.mps.toNat s.ctx.remaining.toNat) = s.cfg.txFifoDepth0.toNat := by
  decide +kernel
theorem witness_IepintCompletionSendsTheZeroLengthPacket :
    let s : State := { sending with ctx := ⟨.cfg, 64, 0, 64, true⟩ }
    s.epIn0.xfrc = true ∧ s.cteState = .txInProgress ∧ s.ctx.remaining = 0 ∧ s.ctx.zlpPending = true := by decide
theorem witness_SetupDoneResult :
    let s : State := { asked with rxFifo := [0x00080000] }
    s.rxFifo = 0x00080000 :: [] ∧ (RxStatus.ofWord s.cfg.regmap 0x00080000).pktsts = s.cfg.pktstsSetupDone ∧
      (RxStatus.ofWord s.cfg.regmap 0x00080000).pktsts ≠ s.cfg.pktstsSetupRx := by decide
theorem witness_SetupRxAnswersEveryPacket :
    ({ ready with rxFifo := [0x00050500, 0x00000000] } : State).rxFifo = 0x00050500 :: 0x00000000 :: [] ∧
      (stale 16 ready).txFifo0.length + 16 = ready.cfg.txFifoDepth0.toNat := by decide
/-- Endpoint 0; the streaming endpoint while streaming; the streaming endpoint otherwise; another endpoint. Three bytes in
the one word left in the queue. -/
theorem witness_OutRxDrainsAndRearms :
    ceil4 (3 : BitVec 11).toNat = ({ streaming with rxFifo := [0x00030201] } : State).rxFifo.length ∧
      (0 : BitVec 4) = 0 ∧
      ((1 : BitVec 4) ≠ 0 ∧ 1 = streaming.cfg.epStream ∧ streaming.streamingEnabled = true) ∧
      ((1 : BitVec 4) ≠ 0 ∧ ready.streamingEnabled = false) ∧
      ((2 : BitVec 4) ≠ 0 ∧ 2 ≠ streaming.cfg.epStream) := by decide
theorem witness_PktstsOtherIgnored :
    let s : State := { ready with rxFifo := [0x00060000] }
    s.rxFifo = 0x00060000 :: [] ∧ (RxStatus.ofWord s.cfg.regmap 0x00060000).pktsts ≠ s.cfg.pktstsSetupRx ∧
      (RxStatus.ofWord s.cfg.regmap 0x00060000).pktsts ≠ s.cfg.pktstsSetupDone ∧
      (RxStatus.ofWord s.cfg.regmap 0x00060000).pktsts ≠ s.cfg.pktstsOutRx := by decide
/-- Room for exactly the packet; and the empty response, which needs none. -/
theorem witness_GetDescriptorStartsTheResponse :
    (stale 27 ready).txFifo0.length + ceil4 (firstChunk (min getDevice.length.toNat ready.cfg.devDesc.length)) =
        ready.cfg.txFifoDepth0.toNat ∧
      (stale 16 ready).txFifo0.length + ceil4 (firstChunk (min getConfig.length.toNat ready.cfg.cfgDesc.length)) =
        ready.cfg.txFifoDepth0.toNat ∧
      firstChunk (min (0 : Half).toNat ready.cfg.devDesc.length) = 0 ∧
      firstChunk (min (0 : Half).toNat ready.cfg.cfgDesc.length) = 0 := by decide +kernel
theorem witness_GetDescriptorOtherStallsIn :
    getString.typeAllowed Config.default = true ∧ getString.request = 0x06 ∧ getString.descriptorType ≠ 0x01 ∧
      getString.descriptorType ≠ 0x02 := by decide
theorem witness_SetAddressWritesTheAddress :
    (⟨0, 5, 0x1234, 0, 0⟩ : SetupPacket).typeAllowed Config.default = true ∧
      (⟨0, 5, 0x1234, 0, 0⟩ : SetupPacket).request = 0x05 := by decide
theorem witness_SetConfigurationAcknowledges :
    (⟨0, 9, 1, 0, 0⟩ : SetupPacket).typeAllowed Config.default = true ∧
      (⟨0, 9, 1, 0, 0⟩ : SetupPacket).request = 0x09 := by decide
theorem witness_SetInterfaceOffDisablesStreaming :
    let p : SetupPacket := ⟨1, 0x0B, 0, 1, 0⟩
    p.typeAllowed Config.default = true ∧ p.request = 0x0B ∧ p.recipient = 1 ∧ p.index = 1 ∧ p.value = 0 := by decide
theorem witness_SetInterfaceOnEnablesStreaming :
    let p : SetupPacket := ⟨0x21, 0x0B, 1, 1, 8⟩
    p.typeAllowed Config.default = true ∧ Config.default.asAltActive ≠ 0 ∧ p.request = 0x0B ∧ p.recipient = 1 ∧
      p.index = 1 ∧ p.value = Config.default.asAltActive := by decide
theorem witness_SetInterfaceOtherAcknowledges_interface :
    let p : SetupPacket := ⟨1, 0x0B, 1, 0x0101, 0⟩
    p.typeAllowed Config.default = true ∧ p.request = 0x0B ∧ p.recipient = 1 ∧ p.index ≠ 1 := by decide
theorem witness_SetInterfaceOtherAcknowledges_alternate :
    let p : SetupPacket := ⟨1, 0x0B, 2, 1, 0⟩
    p.typeAllowed Config.default = true ∧ p.request = 0x0B ∧ p.recipient = 1 ∧ p.value ≠ 0 ∧
      p.value ≠ Config.default.asAltActive := by decide
theorem witness_UnsupportedRequestStallsBoth_code :
    getStatus.request ≠ 0x05 ∧ getStatus.request ≠ 0x06 ∧ getStatus.request ≠ 0x09 ∧ getStatus.request ≠ 0x0B := by decide
theorem witness_UnsupportedRequestStallsBoth_type :
    ({ Config.default with reqTypeCheck := .standardOnly } : Config).reqTypeCheck = .standardOnly ∧
      (⟨0x21, 0x05, 5, 0, 0⟩ : SetupPacket).reqType ≠ 0 := by decide
theorem witness_UnsupportedRequestStallsBoth_recipient :
    let p : SetupPacket := ⟨0, 0x0B, 1, 1, 0⟩
    Config.default.setifRecipientCheck = true ∧ p.request ≠ 0x05 ∧ p.request ≠ 0x06 ∧ p.request ≠ 0x09 ∧
      p.recipient ≠ 1 := by decide
theorem witness_RxUnderflowStops :
    ready.rxFifo = [] ∧ ({ ready with rxFifo := [0x01000680] } : State).rxFifo.length < 2 ∧
      ({ ready with rxFifo := [0x01000680] } : State).rxFifo.length < ceil4 (5 : BitVec 11).toNat := by decide
/-- One word too many in the queue. -/
theorem witness_GetDescriptorWithoutRoomStops :
    let s := stale 28 asked
    firstChunk (min getDevice.length.toNat (s.store .dev).length) = 18 ∧
      s.txFifo0.length ≤ s.cfg.txFifoDepth0.toNat ∧
      s.cfg.txFifoDepth0.toNat + 1 = s.txFifo0.length + ceil4 18 := by decide +kernel
theorem witness_CompletionStops_decoding :
    ({ sending with cteState := .setupReceived } : State).epIn0.xfrc = true := by decide
theorem witness_CompletionStops_overrun :
    let s : State := { sending with ctx := ⟨.cfg, 129, 22, 64, false⟩ }
    s.cteState = .txInProgress ∧ s.ctx.chunk = 22 ∧ (s.store s.ctx.src).length + 1 = s.ctx.offset.toNat + s.ctx.chunk := by
  decide +kernel
theorem witness_CompletionStops_full :
    let s := sendingFull 27
    s.cteState = .txInProgress ∧ s.ctx.chunk = 22 ∧ s.ctx.offset.toNat + s.ctx.chunk = (s.store s.ctx.src).length ∧
      s.cfg.txFifoDepth0.toNat + 1 = s.txFifo0.length + ceil4 s.ctx.chunk := by decide +kernel
theorem witness_EnvSetupResult :
    ready.epOut0.ctl.enabled = true ∧
      ({ ready with rxFifo := List.replicate 61 0 } : State).rxFifo.length + 3 = ready.cfg.rxFifoDepth.toNat ∧
      State.reset.epOut0.ctl.enabled = false ∧
      ready.cfg.rxFifoDepth.toNat < ({ ready with rxFifo := List.replicate 62 0 } : State).rxFifo.length + 3 := by
  decide +kernel
/-- A stalled endpoint; one with nothing armed; one with 18 bytes armed and exactly their words queued. -/
theorem witness_EnvInResult :
    ({ ready with epIn0 := ready.epIn0.stalled } : State).epIn0.ctl.stall = true ∧
      (ready.epIn0.ctl.stall = false ∧ ready.epIn0.tsiz.pktcnt = 0) ∧
      (let s : State := { ready with
        epIn0 := ⟨⟨64, false, false, true⟩, ⟨1, 18⟩, false⟩
        txFifo0 := List.replicate 5 0 }
      s.epIn0.ctl.enabled = true ∧ s.epIn0.ctl.nak = false ∧ s.epIn0.tsiz.pktcnt ≠ 0 ∧
        ceil4 s.epIn0.tsiz.xfrsiz.toNat = s.txFifo0.length) := by decide
/-- A stalled endpoint; a packet one byte too long; a packet of exactly the room offered, into exactly the room left. -/
theorem witness_EnvOutResult :
    ({ ready with epOut0 := ready.epOut0.stalled } : State).epOut0.ctl.stall = true ∧
      (ready.epOut0.ctl.stall = false ∧ ready.epOut0.tsiz.xfrsiz.toNat < (List.replicate 65 (0 : Byte)).length) ∧
      (ready.epOut0.ctl.enabled = true ∧ ready.epOut0.ctl.nak = false ∧ ready.epOut0.tsiz.pktcnt ≠ 0 ∧
        (List.replicate 64 (0 : Byte)).length = ready.epOut0.tsiz.xfrsiz.toNat ∧
        (List.replicate 47 (0 : Word)).length + (1 + ceil4 64) = ready.cfg.rxFifoDepth.toNat) := by decide +kernel
theorem witness_EnvOtherStepsResult :
    ({ ready with setupDoneOwed := true } : State).setupDoneOwed = true ∧
      (List.replicate 63 (0 : Word)).length + 1 = ready.cfg.rxFifoDepth.toNat ∧ ready.setupDoneOwed = false ∧
      ready.cfg.rxFifoDepth.toNat < (List.replicate 64 (0 : Word)).length + 1 ∧
      ((0b0011 : BitVec 4) ≠ ready.cfg.pktstsSetupRx ∧ 0b0011 ≠ ready.cfg.pktstsSetupDone ∧
        0b0011 ≠ ready.cfg.pktstsOutRx) ∧
      (0b0110 : BitVec 4) = ready.cfg.pktstsSetupRx := by decide +kernel
theorem witness_InvariantHoldsAtReset : small.wf = true := by decide

/-- The invariant in a concrete state of a running transfer, with a whole entry queued. -/
def running : State := { sending with rxFifo := [0x00080000] }

theorem witness_running_inv : running.Inv where
  memory := by decide +kernel
  notDecoding := by decide
  streaming := by decide
  chunk := by decide
  context := by decide
  transfer := by decide +kernel
  outRoom := by decide
theorem witness_running_entries : running.cfg.wf = true ∧ running.rxAligned ∧ running.outRoomCountable := by decide +kernel
/-- A step from it answers a next state: the hypotheses of every statement about a next state of `step` or `service`. -/
theorem witness_running_step :
    after (step running) (fun t => (t.rxFifo, t.ctx.offset)) = some ([], 150) ∧
      after (service running) (fun t => t.epIn0.xfrc) = some false ∧ running.rxflvl = true ∧ running.iepint = true := by
  decide +kernel
theorem witness_Endpoint0KeepsItsPacketSize :
    running.ep0Sized ∧ after (exec .usbrst running) (fun t => t.cteState) = some .idle := by decide +kernel
theorem witness_FaultRecordNeverShrinks_stop :
    stopped (step { ready with rxFifo := [0x000C0080], schedule := [.service] }) (fun u => u.faults.rxUnderflow) =
      some true := by decide
theorem witness_AddressChanges_request :
    after (step setupQueued) (fun t => t.devcfg.addr) = some 5 ∧ setupQueued.devcfg.addr ≠ 5 := by decide
theorem witness_AddressChanges_reset :
    let s : State := { ready with devcfg := ⟨0b11, 5⟩, usbrst := true }
    after (step s) (fun t => t.devcfg.addr) = some 0 ∧ s.devcfg.addr ≠ 0 := by decide
theorem witness_ControlState_unchanged :
    (after (exec .enumdne running) fun t => t.cteState) = some .txInProgress ∧
      (after (exec (.setupDone ⟨0, 0, 0, 0b0100, 0, 0⟩) running) fun t => t.cteState) = some .txInProgress ∧
      (after (exec (.outRx ⟨0, 0, 0, 0b0010, 0, 0⟩) running) fun t => t.cteState) = some .txInProgress ∧
      (after (exec (.pktstsOther ⟨0, 0, 0, 0b0011, 0, 0⟩) running) fun t => t.cteState) = some .txInProgress := by decide
theorem witness_ControlState_setup :
    (after (exec (.setupRx ⟨0, 8, 0, 0b0110, 0, 0⟩) { ready with rxFifo := [0x00050500, 0x00000000] })
      fun t => t.cteState) = some .statusPending := by decide
theorem witness_ControlState_complete : (after (exec .iepint running) fun t => t.cteState) = some .txInProgress := by
  decide +kernel
theorem witness_ServiceAcknowledgesEveryFlag :
    let s : State := { running with usbrst := true, enumdne := true, epInS := { running.epInS with xfrc := true } }
    s.cfg.regmap.wf = true ∧ after (service s) (fun t => t.cteState) = some .idle ∧ s.usbrst = true ∧ s.enumdne = true ∧ s.rxflvl = true ∧
      s.iepint = true ∧ s.epIn0.xfrc = true ∧ s.epInS.xfrc = true := by decide +kernel
theorem witness_QuietHostLowersTheLine :
    running.cfg.regmap.wf = true ∧ running.schedule = [] ∧
      (match Sys2Proof.core.run (running.rxFifo.length + 1) running with
        | .next _ => true
        | .fault _ => false
        | .refused _ => false) = true := by decide +kernel
theorem witness_StallRaised_both :
    let s : State := { ready with rxFifo := [0x000C0080, 0x00000080, 0x00020000] }
    after (step s) (fun t => (t.epIn0.ctl.stall, t.epOut0.ctl.stall)) = some (true, true) ∧
      s.epIn0.ctl.stall = false ∧ s.epOut0.ctl.stall = false := by decide
theorem witness_StallRaised_in :
    let s : State := { ready with rxFifo := [0x000C0080, 0x03000680, 0x00FF0000] }
    after (step s) (fun t => (t.epIn0.ctl.stall, t.epOut0.ctl.stall)) = some (true, false) ∧
      s.epIn0.ctl.stall = false := by decide
theorem witness_StallEnds_setup :
    let s : State := { ready with epIn0 := ready.epIn0.stalled, schedule := [.env (.setup getDevice noBits)] }
    after (step s) (fun t => t.epIn0.ctl.stall) = some false ∧ s.epIn0.ctl.stall = true := by decide
theorem witness_StallEnds_reset :
    let s : State := { ready with epOut0 := ready.epOut0.stalled, usbrst := true }
    after (step s) (fun t => t.epOut0.ctl.stall) = some false ∧ s.epOut0.ctl.stall = true := by decide
/-- A next state and the four stops. -/
theorem witness_RegisterAddressesChangeNothing :
    after (step running) (fun t => t.ctx.offset) = some 150 ∧
      (match step { ready with rxFifo := [0x000C0080] } with | .fault (.rxUnderflow _) => true | _ => false) = true ∧
      (match step (sendingFull 27) with | .fault (.txOverflow .ep0 _) => true | _ => false) = true ∧
      (match step { sending with ctx := ⟨.cfg, 129, 22, 64, false⟩ } with
        | .fault (.descOverrun _) => true | _ => false) = true ∧
      (match step { sending with cteState := .setupReceived } with
        | .fault (.completionWhileDecoding _) => true | _ => false) = true := by decide +kernel
theorem witness_UnspecifiedResetValuesAreNeverRead :
    let s : State := { ready with rxFifo := [0x000C0080, 0x01000680, 0x00400000] }
    s.cteState ≠ .txInProgress ∧ after (step s) (fun t => t.cteState) = some .txInProgress := by decide +kernel
theorem witness_DescriptorRequest_quiet : asked.Quiet where
  usbrst := rfl
  enumdne := rfl
  rxFifo := rfl
  txFifo0 := rfl
  xfrc0 := rfl
  xfrcS := rfl
  stall := rfl
  depmsk := rfl
  iepintMask := rfl
theorem witness_DescriptorRequest_begins :
    asked.cfg.wf = true ∧
      after (exec (.getDescriptorDevice getDevice) asked) (fun t => t.cteState) = some .txInProgress ∧
      after (exec (.getDescriptorConfiguration getConfig) asked) (fun t => t.cteState) = some .txInProgress := by
  decide +kernel

end Sys2Proof.Tests
end

section
/-! Bytes and FIFO words (20_memory.md rules R70 to R73): what packed words unpack to, lane by lane. -/

namespace Sys2Proof.Machine

/-- Four more bytes leave as many lanes of the last word unused. -/
theorem unusedLanes_add_four (n : Nat) : 4 * ceil4 (n + 4) - (n + 4) = 4 * ceil4 n - n := by
  unfold ceil4
  omega

/-- Packed words unpack to the bytes, followed by the top lanes of `lanes` that no byte fills. -/
theorem flatMap_wordBytes_packLanes (lanes : Word) (bs : List Byte) :
    (packLanes lanes bs).flatMap wordBytes =
      bs ++ (wordBytes lanes).drop (4 - (4 * ceil4 bs.length - bs.length)) := by
  induction bs using packLanes.induct with
  | case1 => rfl
  | case2 a => rw [packLanes, List.flatMap_singleton, wordBytes_leWord]; simp [ceil4, wordBytes]
  | case3 a b => rw [packLanes, List.flatMap_singleton, wordBytes_leWord]; simp [ceil4, wordBytes]
  | case4 a b c => rw [packLanes, List.flatMap_singleton, wordBytes_leWord]; simp [ceil4, wordBytes]
  | case5 a b c d rest ih =>
    have hlen : (a :: b :: c :: d :: rest).length = rest.length + 4 := rfl
    rw [hlen, unusedLanes_add_four, packLanes, List.flatMap_cons, wordBytes_leWord, ih]
    rfl

theorem wordBytes_zero : wordBytes 0 = List.replicate 4 0 := rfl

/-- Packing for the engine leaves 0 in every lane no byte fills (rule R72). -/
theorem flatMap_wordBytes_packBytes (bs : List Byte) :
    (packBytes bs).flatMap wordBytes = bs ++ List.replicate (4 * ceil4 bs.length - bs.length) 0 := by
  have hle : 4 * ceil4 bs.length - bs.length ≤ 4 := by
    unfold ceil4
    omega
  rw [packBytes, flatMap_wordBytes_packLanes, wordBytes_zero, List.drop_replicate, Nat.sub_sub_self hle]

/-- Unpacking gives the packed bytes back, whatever the unused lanes hold (rules R71, R73). -/
theorem unpackBytes_packLanes (lanes : Word) (bs : List Byte) :
    unpackBytes bs.length (packLanes lanes bs) = bs := by
  rw [unpackBytes, flatMap_wordBytes_packLanes, List.take_left]

/-- Settles O8, from what packed words unpack to: the bytes and then the lanes no byte fills. -/
theorem bytesPackLittleEndian : Obligations.BytesPackLittleEndian :=
  ⟨flatMap_wordBytes_packBytes, fun lanes bs => ⟨packLanes_length lanes bs, unpackBytes_packLanes lanes bs⟩⟩

end Sys2Proof.Machine
end

section
/-! The dispatcher's events of a `GINTSTS` word (30_encoding.md rule R102), in every layout: the fixed order, and the
reserved bits left out. No field needs to stand apart from another here, or inside the word. -/

namespace Sys2Proof.Machine

/-- The rows whose bit is set, row by row. -/
theorem setRows_cons (g : Word) (p : Nat) (i : Instr) (rows : List (Nat × Instr)) :
    (((p, i) :: rows).filter (fun r => g.getLsbD r.1)).map (·.2) =
      (if g.getLsbD p then [i] else []) ++ (rows.filter (fun r => g.getLsbD r.1)).map (·.2) := by
  rw [List.filter_cons]
  split <;> rfl

/-- The events of a `GINTSTS` word are the rows of the dispatcher's table whose bit is set, in the table's order. -/
theorem gintstsEvents_eq_setRows (m : RegMap) (g : Word) :
    gintstsEvents m g =
      ([(m.usbrst, Instr.usbrst), (m.rxflvl, Instr.rxflvl), (m.enumdne, Instr.enumdne), (m.iepint, Instr.iepint)].filter
        (fun r => g.getLsbD r.1)).map (·.2) := by
  simp only [setRows_cons, gintstsEvents, List.filter_nil, List.map_nil, List.append_nil, List.append_assoc]

/-- Each of the four bits is in the mask, where it is in the word at all. -/
theorem gintMask_getLsbD_own (m : RegMap) {j : Nat} (hj : j ∈ [m.usbrst, m.rxflvl, m.enumdne, m.iepint])
    (hlt : j < 32) : m.gintMask.getLsbD j = true := by
  have hown : (bitAt j true).getLsbD j = true := by simp only [bitAt_getLsbD j j true hlt, decide_true, Bool.and_self]
  simp only [List.mem_cons, List.not_mem_nil, or_false] at hj
  obtain rfl | rfl | rfl | rfl := hj <;>
    simp only [RegMap.gintMask, BitVec.getLsbD_or, hown, Bool.or_true, Bool.true_or]

/-- Clearing the reserved bits of a word leaves each of the four bits as it is. -/
theorem and_gintMask_getLsbD_own (m : RegMap) (g : Word) {j : Nat}
    (hj : j ∈ [m.usbrst, m.rxflvl, m.enumdne, m.iepint]) : (g &&& m.gintMask).getLsbD j = g.getLsbD j := by
  rw [BitVec.getLsbD_and]
  by_cases hlt : j < 32
  · rw [gintMask_getLsbD_own m hj hlt, Bool.and_true]
  · rw [BitVec.getLsbD_of_ge g j (Nat.le_of_not_lt hlt), Bool.false_and]

/-- Reserved bits select no event. -/
theorem gintstsEvents_and_gintMask (m : RegMap) (g : Word) : gintstsEvents m (g &&& m.gintMask) = gintstsEvents m g := by
  have husbrst := and_gintMask_getLsbD_own m g (j := m.usbrst) (by simp)
  have hrxflvl := and_gintMask_getLsbD_own m g (j := m.rxflvl) (by simp)
  have henumdne := and_gintMask_getLsbD_own m g (j := m.enumdne) (by simp)
  have hiepint := and_gintMask_getLsbD_own m g (j := m.iepint) (by simp)
  simp only [gintstsEvents, husbrst, hrxflvl, henumdne, hiepint]

/-- Settles O6, from the events as the set rows of the fixed table, none of which is at a reserved bit; the last part is
the definition of the service step. -/
theorem interruptBitsInFixedOrder : Obligations.InterruptBitsInFixedOrder :=
  ⟨fun m g => ⟨gintstsEvents_eq_setRows m g, gintstsEvents_and_gintMask m g⟩, fun _ => rfl⟩

end Sys2Proof.Machine
end

section
/-! The acknowledges of `GINTSTS` (44_interrupt_dispatcher.md rules R232, R241): what the one write leaves, and which event
the bit stands for. -/

namespace Sys2Proof.Machine

/-- A write of 1 to `GINTSTS.usbrst` alone. -/
theorem regWrite_gintsts_usbrst (s : State) :
    regWrite (.gintsts true false) s =
      { s with usbrst := false, accesses := s.accesses ++ [.write (.gintsts true false)] } := by
  simp [regWrite_eq, applyWrite, logAll]

/-- A write of 1 to `GINTSTS.enumdne` alone. -/
theorem regWrite_gintsts_enumdne (s : State) :
    regWrite (.gintsts false true) s =
      { s with enumdne := false, accesses := s.accesses ++ [.write (.gintsts false true)] } := by
  simp [regWrite_eq, applyWrite, logAll]

/-- In a layout that keeps its fields apart the bit of `enumdne` shows in no other place. -/
theorem gintstsEvents_enumdne_bit {m : RegMap} (h : m.wf = true) :
    gintstsEvents m (bitAt m.enumdne true) = [.enumdne] := by
  obtain ⟨-, -, hlt, -, -, hrx, -, hub, -, hie⟩ := RegMap.gint_apart h
  simp [gintstsEvents, bitAt_getLsbD _ _ _ hlt, Ne.symm hrx, Ne.symm hub, hie, -BitVec.getLsbD_eq_getElem]

/-- Settles O14, from the bit of `enumdne` standing apart and from what its acknowledge leaves. -/
theorem enumdneResult : Obligations.EnumdneResult :=
  ⟨fun _ h => gintstsEvents_enumdne_bit h, fun s => congrArg _ (regWrite_gintsts_enumdne s)⟩

end Sys2Proof.Machine
end

section
/-! How the flags the dispatcher observes can fall (44_interrupt_dispatcher.md rule R243): one relation between two states
of a service step, and that every operation the events are built from keeps it. -/

namespace Sys2Proof.Machine

/-- The flag is as it was, or it has fallen and its acknowledge `w` is among the accesses. -/
def KeptOrAcked (w : RegWrite) (before after : Bool) (accesses : List Access) : Prop :=
  after = before ∨ after = false ∧ Access.write w ∈ accesses

/-- From `s` to `t` each flag falls by its acknowledge alone and none rises; the receive queue does not grow, and the
access list is only appended to. -/
structure State.FallsByAck (s t : State) : Prop where
  usbrst : KeptOrAcked (.gintsts true false) s.usbrst t.usbrst t.accesses
  enumdne : KeptOrAcked (.gintsts false true) s.enumdne t.enumdne t.accesses
  xfrc0 : KeptOrAcked (.epint .inp .ep0 true) s.epIn0.xfrc t.epIn0.xfrc t.accesses
  xfrcS : KeptOrAcked (.epint .inp .stream true) s.epInS.xfrc t.epInS.xfrc t.accesses
  rxFifo : t.rxFifo.length ≤ s.rxFifo.length
  accesses : s.accesses <+: t.accesses

namespace KeptOrAcked

variable {w : RegWrite} {a b c : Bool} {l m : List Access}

theorem refl : KeptOrAcked w a a l := Or.inl rfl

theorem trans (h : KeptOrAcked w a b l) (h' : KeptOrAcked w b c m) (hlm : l <+: m) : KeptOrAcked w a c m := by
  obtain rfl | hc := h'
  · exact h.imp_right fun hb => ⟨hb.1, hlm.subset hb.2⟩
  · exact Or.inr hc

/-- A flag that is down stays down. -/
theorem low (h : KeptOrAcked w a b l) (ha : a = false) : b = false :=
  h.elim (fun hb => hb.trans ha) And.left

/-- A flag that was up and is down has been acknowledged. -/
theorem acked (h : KeptOrAcked w a b l) (ha : a = true) (hb : b = false) : Access.write w ∈ l :=
  h.elim (fun hab => absurd (ha.symm.trans (hab.symm.trans hb)) Bool.noConfusion) And.right

end KeptOrAcked

namespace State.FallsByAck

theorem refl (s : State) : s.FallsByAck s := ⟨.refl, .refl, .refl, .refl, Nat.le_refl _, List.prefix_refl _⟩

theorem trans {s t u : State} (h : s.FallsByAck t) (h' : t.FallsByAck u) : s.FallsByAck u where
  usbrst := h.usbrst.trans h'.usbrst h'.accesses
  enumdne := h.enumdne.trans h'.enumdne h'.accesses
  xfrc0 := h.xfrc0.trans h'.xfrc0 h'.accesses
  xfrcS := h.xfrcS.trans h'.xfrcS h'.accesses
  rxFifo := Nat.le_trans h'.rxFifo h.rxFifo
  accesses := h.accesses.trans h'.accesses

/-- Nothing the relation looks at has changed. -/
theorem of_kept {s t : State} (usbrst : t.usbrst = s.usbrst := by rfl) (enumdne : t.enumdne = s.enumdne := by rfl)
    (xfrc0 : t.epIn0.xfrc = s.epIn0.xfrc := by rfl) (xfrcS : t.epInS.xfrc = s.epInS.xfrc := by rfl)
    (rxFifo : t.rxFifo = s.rxFifo := by rfl) (accesses : t.accesses = s.accesses := by rfl) : s.FallsByAck t :=
  ⟨.inl usbrst, .inl enumdne, .inl xfrc0, .inl xfrcS, rxFifo ▸ Nat.le_refl _, accesses ▸ List.prefix_refl _⟩

/-- Accesses may be appended. -/
theorem log {s t : State} (h : s.FallsByAck t) (l : List Access) : s.FallsByAck (logAll l t) :=
  h.trans ⟨.refl, .refl, .refl, .refl, Nat.le_refl _, List.prefix_append ..⟩

end State.FallsByAck

/-! ## The updates -/

/-- An endpoint entry replaced, its completion flag kept. -/
theorem setEp_fallsByAck {s : State} {d : Dir} {n : Ep} {r : EpRegs} (h : r.xfrc = (s.ep d n).xfrc) :
    s.FallsByAck (s.setEp d n r) := by
  cases d <;> cases n
  case inp.ep0 => exact .of_kept (xfrc0 := h)
  case inp.stream => exact .of_kept (xfrcS := h)
  case out.ep0 => exact .of_kept
  case out.stream => exact .of_kept

theorem setRxFifo_fallsByAck {s : State} {q : List Word} (h : q.length ≤ s.rxFifo.length) :
    s.FallsByAck (s.setRxFifo q) :=
  ⟨.refl, .refl, .refl, .refl, h, List.prefix_refl _⟩

theorem setTxFifo_fallsByAck (s : State) (n : Ep) (q : List Word) : s.FallsByAck (s.setTxFifo n q) := by
  cases n
  case ep0 => exact .of_kept
  case stream => exact .of_kept

theorem updateAddr_fallsByAck (a : BitVec 7) (s : State) : s.FallsByAck (updateAddr a s) :=
  updateAddr_eq a s ▸ .log .of_kept _

theorem resetEp0_fallsByAck (s : State) : s.FallsByAck (resetEp0 s) :=
  resetEp0_eq s ▸ .log .of_kept _

theorem enableStreaming_fallsByAck (m : BitVec 11) (s : State) : s.FallsByAck (enableStreaming m s) :=
  enableStreaming_eq m s ▸ .log .of_kept _

theorem disableStreaming_fallsByAck (s : State) : s.FallsByAck (disableStreaming s) :=
  disableStreaming_eq s ▸ .log .of_kept _

theorem armIn_fallsByAck (n : Ep) (k : Nat) (s : State) : s.FallsByAck (armIn n k s) :=
  armIn_eq n k s ▸ .log (setEp_fallsByAck (by rfl)) _

theorem armOut_fallsByAck (n : Ep) (s : State) : s.FallsByAck (armOut n s) :=
  armOut_eq n s ▸ .log (setEp_fallsByAck (by rfl)) _

theorem stall_fallsByAck (d : Dir) (n : Ep) (s : State) : s.FallsByAck (stall d n s) :=
  stall_eq d n s ▸ .log (setEp_fallsByAck (by rfl)) _

theorem markStale_fallsByAck (k : Nat) (s : State) : s.FallsByAck (markStale k s) := by
  obtain h | h := markStale_cases k s
  · rw [h]
    exact .refl s
  · rw [h]
    exact .of_kept

/-! ## The operations that can stop -/

/-- `PopRx()` takes one word and logs it. -/
theorem popRx_next {s t : State} {w : Word} (h : popRx s = .next (w, t)) :
    ∃ rest, s.rxFifo = w :: rest ∧ t = logAll [.popRx w] (s.setRxFifo rest) := by
  match hq : s.rxFifo with
  | [] => simp [popRx_nil hq] at h
  | v :: rest =>
    simp only [popRx_cons hq, Host.Outcome.next.injEq, Prod.mk.injEq] at h
    obtain ⟨rfl, rfl⟩ := h
    exact ⟨rest, rfl, rfl⟩

theorem popRx_fallsByAck {s t : State} {w : Word} (h : popRx s = .next (w, t)) : s.FallsByAck t := by
  obtain ⟨rest, hq, rfl⟩ := popRx_next h
  exact (setRxFifo_fallsByAck (by simp [hq])).log _

theorem popWords_fallsByAck {k : Nat} {s : State} {r : List Word × State} (h : popWords k s = .next r) :
    s.FallsByAck r.2 := by
  by_cases hk : k ≤ s.rxFifo.length
  · rw [popWords_eq k s hk] at h
    cases h
    exact (setRxFifo_fallsByAck (by simp)).log _
  · obtain ⟨u, hu, -⟩ := popWords_underflow k s (by omega)
    simp [hu] at h

theorem popBytes_fallsByAck {n : Nat} {s : State} {r : List Byte × State} (h : popBytes n s = .next r) :
    s.FallsByAck r.2 := by
  obtain ⟨q, hq, hr⟩ := andThen_eq_next.mp h
  cases hr
  exact popWords_fallsByAck hq

theorem drain_fallsByAck {n : Nat} {s t : State} (h : drain n s = .next t) : s.FallsByAck t := by
  obtain ⟨q, hq, ht⟩ := andThen_eq_next.mp h
  cases ht
  exact popWords_fallsByAck hq

theorem pushWords_fallsByAck {n : Ep} {ws : List Word} {s t : State} (h : pushWords n ws s = .next t) :
    s.FallsByAck t := by
  by_cases hroom : ws = [] ∨ (s.txFifo n).length + ws.length ≤ s.txDepth n
  · rw [pushWords_eq n ws s hroom] at h
    cases h
    exact (setTxFifo_fallsByAck ..).log _
  · obtain ⟨hne, hfull⟩ := not_or.mp hroom
    obtain ⟨u, l, q, hu, -⟩ := pushWords_overflow n ws s hne (by omega)
    simp [hu] at h

theorem readDesc_fallsByAck {src : Src} {off k : Nat} {s : State} {r : List Byte × State}
    (h : readDesc src off k s = .next r) : s.FallsByAck r.2 := by
  by_cases hin : k = 0 ∨ off + k ≤ (s.store src).length
  · rw [readDesc_eq src off k s hin] at h
    cases h
    exact .log (.refl s) _
  · obtain ⟨hk, hout⟩ := not_or.mp hin
    obtain ⟨u, hu⟩ := readDesc_overrun src off k s hk (by omega)
    simp [hu] at h

/-! ## The Control Transfer Engine -/

theorem sendInPacket_fallsByAck {k : Nat} {src : Src} {off : Nat} {s t : State}
    (h : sendInPacket k src off s = .next t) : s.FallsByAck t := by
  obtain ⟨r, hr, ht⟩ := andThen_eq_next.mp h
  have hmark := markStale_fallsByAck k s
  have harm := armIn_fallsByAck .ep0 k (markStale k s)
  have hread := readDesc_fallsByAck hr
  have hpush := pushWords_fallsByAck ht
  exact hmark.trans (harm.trans (hread.trans hpush))

theorem sendChunk_fallsByAck {s t : State} (h : sendChunk s = .next t) : s.FallsByAck t := by
  obtain ⟨u, hu, ht⟩ := andThen_eq_next.mp h
  cases ht
  exact (sendInPacket_fallsByAck hu).trans .of_kept

theorem startTx_fallsByAck {src : Src} {s t : State} (h : startTx src s = .next t) : s.FallsByAck t :=
  State.FallsByAck.trans .of_kept (sendChunk_fallsByAck h)

theorem sendStatus_fallsByAck {s t : State} (h : sendStatus s = .next t) : s.FallsByAck t := by
  rw [sendStatus_eq] at h
  cases h
  exact (armIn_fallsByAck ..).trans .of_kept

theorem inComplete_fallsByAck {s t : State} (h : inComplete s = .next t) : s.FallsByAck t := by
  unfold inComplete at h
  cases hc : s.cteState with
  | idle =>
    rw [hc] at h
    cases h
    exact .refl s
  | setupReceived =>
    rw [hc] at h
    cases h
  | txInProgress =>
    simp only [hc] at h
    split_ifs at h
    · exact sendChunk_fallsByAck h
    · obtain ⟨u, hu, ht⟩ := andThen_eq_next.mp h
      cases ht
      exact (sendInPacket_fallsByAck hu).trans .of_kept
    · cases h
      exact .of_kept
  | statusPending =>
    rw [hc] at h
    cases h
    exact .of_kept

end Sys2Proof.Machine
end

section
/-! Every event of the decoder lets the flags fall by their acknowledges alone, and each interrupt event clears its own
(44_interrupt_dispatcher.md rules R232 to R242). -/

namespace Sys2Proof.Machine

/-! ## The SETUP events -/

theorem exec_ite (c : Prop) [Decidable c] (i j : Instr) (s : State) :
    exec (if c then i else j) s = if c then exec i s else exec j s :=
  apply_ite (exec · s) c i j

/-- The request dispatcher runs the event the decoder reads from the packet (30_encoding.md rule R108,
43_request_decoder.md rule R201): the decoder repeats in each test what the dispatcher asks once. -/
theorem dispatchSetup_eq_exec (p : SetupPacket) (s : State) : dispatchSetup p s = exec (decodeSetup s.cfg p) s := by
  simp only [dispatchSetup, decodeSetup, exec_ite, Bool.and_eq_true, beq_iff_eq]
  by_cases ht : p.typeAllowed s.cfg = true
  · by_cases hg : p.request = reqGetDescriptor
    · simp [ht, hg, exec]
    · by_cases hr : p.recipientAllowed s.cfg = true
      · by_cases hi : p.request = reqSetInterface
        · rw [hi] at hg
          simp [ht, hg, hr, hi, exec]
        · simp [ht, hg, hr, hi, exec]
      · simp [ht, hg, hr, exec]
  · simp [ht, exec]

theorem decodeSetup_format (c : Config) (p : SetupPacket) : (decodeSetup c p).format = .setup := by
  unfold decodeSetup
  split_ifs <;> rfl

theorem setupReceived_fallsByAck (p : SetupPacket) (s : State) : s.FallsByAck (setupReceived p s) := .of_kept

theorem exec_setup_fallsByAck {i : Instr} {s t : State} (hi : i.format = .setup) (h : exec i s = .next t) :
    s.FallsByAck t := by
  cases i with
  | usbrst | rxflvl | enumdne | iepint | setupRx | setupDone | outRx | pktstsOther => cases hi
  | getDescriptorDevice p | getDescriptorConfiguration p =>
    exact (setupReceived_fallsByAck p s).trans (startTx_fallsByAck h)
  | getDescriptorOther p =>
    cases h
    exact (setupReceived_fallsByAck p s).trans ((stall_fallsByAck ..).trans .of_kept)
  | setAddress p =>
    exact (setupReceived_fallsByAck p s).trans ((updateAddr_fallsByAck ..).trans (sendStatus_fallsByAck h))
  | setInterfaceAsOff p =>
    have hoff := disableStreaming_fallsByAck (setupReceived p s)
    exact (setupReceived_fallsByAck p s).trans (hoff.trans (.trans .of_kept (sendStatus_fallsByAck h)))
  | setInterfaceAsOn p =>
    have hon := enableStreaming_fallsByAck s.cfg.streamMps (setupReceived p s)
    exact (setupReceived_fallsByAck p s).trans (hon.trans (.trans .of_kept (sendStatus_fallsByAck h)))
  | setConfiguration p | setInterfaceOther p => exact (setupReceived_fallsByAck p s).trans (sendStatus_fallsByAck h)
  | unsupportedRequest p =>
    cases h
    have hin := stall_fallsByAck .inp .ep0 (setupReceived p s)
    have hout := stall_fallsByAck .out .ep0 (stall .inp .ep0 (setupReceived p s))
    exact (setupReceived_fallsByAck p s).trans (hin.trans (hout.trans .of_kept))

/-! ## The receive events -/

theorem execSetupRx_fallsByAck {st : RxStatus} {s t : State} (h : execSetupRx st s = .next t) : s.FallsByAck t := by
  obtain ⟨r, hr, ht⟩ := andThen_eq_next.mp h
  rw [dispatchSetup_eq_exec] at ht
  exact (popBytes_fallsByAck hr).trans (exec_setup_fallsByAck (decodeSetup_format ..) ht)

theorem execSetupDone_fallsByAck {st : RxStatus} {s t : State} (h : execSetupDone st s = .next t) :
    s.FallsByAck t := by
  cases h
  exact armOut_fallsByAck ..

theorem execOutRx_fallsByAck {st : RxStatus} {s t : State} (h : execOutRx st s = .next t) : s.FallsByAck t := by
  obtain ⟨u, hu, ht⟩ := andThen_eq_next.mp h
  refine (drain_fallsByAck hu).trans ?_
  split_ifs at ht
  all_goals cases ht
  · exact armOut_fallsByAck ..
  · exact armOut_fallsByAck ..
  · exact .refl _

theorem execPktstsOther_fallsByAck {st : RxStatus} {s t : State} (h : execPktstsOther st s = .next t) :
    s.FallsByAck t := by
  cases h
  exact .refl s

theorem dispatchReceive_fallsByAck {st : RxStatus} {s t : State} (h : dispatchReceive st s = .next t) :
    s.FallsByAck t := by
  unfold dispatchReceive at h
  split_ifs at h
  · exact execSetupRx_fallsByAck h
  · exact execSetupDone_fallsByAck h
  · exact execOutRx_fallsByAck h
  · exact execPktstsOther_fallsByAck h

/-! ## The interrupt events -/

theorem ackUsbrst_fallsByAck (s : State) :
    s.FallsByAck (regWrite (.gintsts true false) s) ∧ (regWrite (.gintsts true false) s).usbrst = false := by
  rw [regWrite_gintsts_usbrst]
  exact ⟨⟨.inr ⟨rfl, by simp⟩, .refl, .refl, .refl, Nat.le_refl _, List.prefix_append ..⟩, rfl⟩

theorem ackEnumdne_fallsByAck (s : State) :
    s.FallsByAck (regWrite (.gintsts false true) s) ∧ (regWrite (.gintsts false true) s).enumdne = false := by
  rw [regWrite_gintsts_enumdne]
  exact ⟨⟨.refl, .inr ⟨rfl, by simp⟩, .refl, .refl, Nat.le_refl _, List.prefix_append ..⟩, rfl⟩

theorem execUsbrst_fallsByAck {s t : State} (h : execUsbrst s = .next t) : s.FallsByAck t ∧ t.usbrst = false := by
  have haddr := updateAddr_fallsByAck 0 s
  have hreset := resetEp0_fallsByAck (updateAddr 0 s)
  have hoff := disableStreaming_fallsByAck (resetEp0 (updateAddr 0 s))
  have hu := haddr.trans (hreset.trans hoff)
  unfold execUsbrst at h
  generalize disableStreaming (resetEp0 (updateAddr 0 s)) = u at h hu
  cases h
  obtain ⟨hack, hlow⟩ := ackUsbrst_fallsByAck
    { u with streamingEnabled := false, cteState := .idle, ctx := { u.ctx with remaining := 0, zlpPending := false } }
  exact ⟨hu.trans (.trans .of_kept hack), hlow⟩

theorem execEnumdne_fallsByAck {s t : State} (h : execEnumdne s = .next t) :
    s.FallsByAck t ∧ t.enumdne = false := by
  cases h
  exact ackEnumdne_fallsByAck s

/-- A receive event takes its status word at least. -/
theorem execRxflvl_fallsByAck {s t : State} (h : execRxflvl s = .next t) :
    s.FallsByAck t ∧ t.rxFifo.length < s.rxFifo.length ∧ ∃ w, Access.popRx w ∈ t.accesses := by
  obtain ⟨⟨w, u⟩, hpop, ht⟩ := andThen_eq_next.mp h
  have hrest := dispatchReceive_fallsByAck ht
  obtain ⟨rest, hq, rfl⟩ := popRx_next hpop
  have hle : t.rxFifo.length ≤ rest.length := hrest.rxFifo
  refine ⟨(popRx_fallsByAck hpop).trans hrest, ?_, w, hrest.accesses.subset (by simp)⟩
  rw [hq, List.length_cons]
  omega

theorem scanIn0_fallsByAck {s t : State} (h : scanIn0 s = .next t) : s.FallsByAck t ∧ t.epIn0.xfrc = false := by
  rw [scanIn0_eq] at h
  split_ifs at h with hx
  · have hgo := inComplete_fallsByAck h
    refine ⟨.trans ?_ hgo, hgo.xfrc0.low rfl⟩
    exact ⟨.refl, .refl, .inr ⟨rfl, by simp⟩, .refl, Nat.le_refl _, List.prefix_append ..⟩
  · cases h
    exact ⟨.log (.refl s) _, Bool.eq_false_of_not_eq_true hx⟩

theorem scanInStream_fallsByAck (s : State) :
    s.FallsByAck (scanInStream s) ∧ (scanInStream s).epInS.xfrc = false := by
  rw [scanInStream_eq]
  refine ⟨⟨.refl, .refl, .refl, ?_, Nat.le_refl _, List.prefix_append ..⟩, rfl⟩
  cases hx : s.epInS.xfrc
  · exact .inl rfl
  · exact .inr ⟨rfl, by simp [streamScanAccesses, hx]⟩

theorem execIepint_fallsByAck {s t : State} (h : execIepint s = .next t) :
    s.FallsByAck t ∧ t.epIn0.xfrc = false ∧ t.epInS.xfrc = false := by
  obtain ⟨u, hu, ht⟩ := andThen_eq_next.mp h
  cases ht
  obtain ⟨h0, hx0⟩ := scanIn0_fallsByAck hu
  obtain ⟨hS, hxS⟩ := scanInStream_fallsByAck u
  exact ⟨h0.trans hS, hS.xfrc0.low hx0, hxS⟩

/-- No event lets a flag fall but by its acknowledge. -/
theorem exec_fallsByAck {i : Instr} {s t : State} (h : exec i s = .next t) : s.FallsByAck t := by
  cases i with
  | usbrst => exact (execUsbrst_fallsByAck h).1
  | rxflvl => exact (execRxflvl_fallsByAck h).1
  | enumdne => exact (execEnumdne_fallsByAck h).1
  | iepint => exact (execIepint_fallsByAck h).1
  | setupRx st => exact execSetupRx_fallsByAck (st := st) h
  | setupDone st => exact execSetupDone_fallsByAck (st := st) h
  | outRx st => exact execOutRx_fallsByAck (st := st) h
  | pktstsOther st => exact execPktstsOther_fallsByAck (st := st) h
  | getDescriptorDevice | getDescriptorConfiguration | getDescriptorOther | setAddress | setConfiguration
  | setInterfaceAsOff | setInterfaceAsOn | setInterfaceOther | unsupportedRequest =>
    exact exec_setup_fallsByAck rfl h

end Sys2Proof.Machine
end

section
/-! The service step (44_interrupt_dispatcher.md rules R230, R243): each flag of the snapshot has its event in the list, and
the events after that one leave the flag down. -/

namespace Sys2Proof.Machine

theorem runEvents_fallsByAck {is : List Instr} {s t : State} (h : runEvents is s = .next t) : s.FallsByAck t :=
  runEvents_keeps (fun _ _ _ hu hv => hu.trans (exec_fallsByAck hv)) is s t (.refl s) h

theorem runEvents_append (is js : List Instr) (s : State) :
    runEvents (is ++ js) s = andThen (runEvents is s) (runEvents js) := by
  induction is generalizing s with
  | nil => rfl
  | cons i is ih =>
    rw [List.cons_append, runEvents_cons, runEvents_cons, andThen_assoc]
    exact congrArg _ (funext ih)

/-- An event of the list runs between those before it and those after it. -/
theorem runEvents_of_mem {i : Instr} {is : List Instr} {s t : State} (hi : i ∈ is) (h : runEvents is s = .next t) :
    ∃ u v, s.FallsByAck u ∧ exec i u = .next v ∧ v.FallsByAck t := by
  obtain ⟨before, after, rfl⟩ := List.append_of_mem hi
  rw [runEvents_append] at h
  obtain ⟨u, hu, hrest⟩ := andThen_eq_next.mp h
  obtain ⟨v, hv, ht⟩ := andThen_eq_next.mp hrest
  exact ⟨u, v, runEvents_fallsByAck hu, hv, runEvents_fallsByAck ht⟩

section
variable {s t : State} (hwf : s.cfg.regmap.wf = true) (h : service s = .next t)
include h

theorem service_fallsByAck : (enterService s).FallsByAck t := runEvents_fallsByAck h

include hwf

theorem service_usbrst_low : t.usbrst = false := by
  cases hs : s.usbrst with
  | false => exact (service_fallsByAck h).usbrst.low hs
  | true =>
    obtain ⟨u, v, -, huv, hvt⟩ :=
      runEvents_of_mem ((mem_gintstsEvents_usbrst ..).mpr ((gintsts_usbrst hwf).trans hs)) h
    exact hvt.usbrst.low (execUsbrst_fallsByAck huv).2

theorem service_enumdne_low : t.enumdne = false := by
  cases hs : s.enumdne with
  | false => exact (service_fallsByAck h).enumdne.low hs
  | true =>
    obtain ⟨u, v, -, huv, hvt⟩ :=
      runEvents_of_mem ((mem_gintstsEvents_enumdne ..).mpr ((gintsts_enumdne hwf).trans hs)) h
    exact hvt.enumdne.low (execEnumdne_fallsByAck huv).2

theorem service_takes_rx_word (hs : s.rxflvl = true) :
    t.rxFifo.length < s.rxFifo.length ∧ ∃ w, Access.popRx w ∈ t.accesses := by
  obtain ⟨u, v, hsu, huv, hvt⟩ :=
    runEvents_of_mem ((mem_gintstsEvents_rxflvl ..).mpr ((gintsts_rxflvl hwf).trans hs)) h
  obtain ⟨-, hlt, w, hw⟩ := execRxflvl_fallsByAck huv
  exact ⟨Nat.lt_of_le_of_lt hvt.rxFifo (Nat.lt_of_lt_of_le hlt hsu.rxFifo), w, hvt.accesses.subset hw⟩

theorem service_xfrc_low (hs : s.iepint = true) : t.epIn0.xfrc = false ∧ t.epInS.xfrc = false := by
  obtain ⟨u, v, -, huv, hvt⟩ :=
    runEvents_of_mem ((mem_gintstsEvents_iepint ..).mpr ((gintsts_iepint hwf).trans hs)) h
  obtain ⟨-, hx0, hxS⟩ := execIepint_fallsByAck huv
  exact ⟨hvt.xfrc0.low hx0, hvt.xfrcS.low hxS⟩

end

/-- Settles O52: each event of the snapshot clears its flag, what follows it keeps the flag down, and no flag falls but by
its acknowledge. -/
theorem serviceAcknowledgesEveryFlag : Obligations.ServiceAcknowledgesEveryFlag := by
  intro s t hwf h
  have hall := service_fallsByAck h
  have husbrst := service_usbrst_low hwf h
  have henumdne := service_enumdne_low hwf h
  refine ⟨husbrst, henumdne, (hall.usbrst.acked · husbrst), (hall.enumdne.acked · henumdne),
    service_takes_rx_word hwf h, fun hs => ?_⟩
  obtain ⟨hx0, hxS⟩ := service_xfrc_low hwf h hs
  exact ⟨hx0, hxS, by simp [State.iepint, hx0, hxS], (hall.xfrc0.acked · hx0), (hall.xfrcS.acked · hxS)⟩

end Sys2Proof.Machine
end

section
/-! What the events that cannot stop leave, each as one record update: bus reset (44_interrupt_dispatcher.md rule R232), the
two receive events that take no data (rules R237, R239), and the requests answered by a stall or by a zero-length status
packet (43_request_decoder.md rules R205 to R212). -/

namespace Sys2Proof.Machine

/-! ## Interrupt and receive events -/

/-- In a layout that keeps its fields apart the bit of `usbrst` shows in no other place. -/
theorem gintstsEvents_usbrst_bit {m : RegMap} (h : m.wf = true) : gintstsEvents m (bitAt m.usbrst true) = [.usbrst] := by
  obtain ⟨-, hlt, -, -, hrx, -, -, hed, hie, -⟩ := RegMap.gint_apart h
  simp [gintstsEvents, bitAt_getLsbD _ _ _ hlt, Ne.symm hrx, hed, hie, -BitVec.getLsbD_eq_getElem]

/-- Settles O13, from the bit of `usbrst` standing apart and the closed forms of the four operations of a bus reset. -/
theorem usbrstResult : Obligations.UsbrstResult := by
  refine ⟨fun _ h => gintstsEvents_usbrst_bit h, fun s => ?_⟩
  simp [exec, execUsbrst, updateAddr_eq, resetEp0_eq, disableStreaming_eq, regWrite_gintsts_usbrst, logAll,
    disableAccesses, EpRegs.disabled, Ctx.dropped]

theorem armOut_ep0_eq (s : State) :
    armOut .ep0 s =
      { s with
        epOut0 := s.epOut0.armed 64
        accesses := s.accesses ++ armAccesses .out .ep0 s.epOut0 64 } := by
  simp [armOut_eq, logAll, setEp_out_ep0, EpRegs.armed, armAccesses]

theorem armOut_stream_eq (s : State) :
    armOut .stream s =
      { s with
        epOutS := s.epOutS.armed (s.cfg.streamMps.setWidth 19)
        accesses := s.accesses ++ armAccesses .out .stream s.epOutS (s.cfg.streamMps.setWidth 19) } := by
  simp [armOut_eq, logAll, setEp_out_stream, EpRegs.armed, armAccesses]

theorem armIn_zero_eq (s : State) :
    armIn .ep0 0 s =
      { s with
        epIn0 := s.epIn0.armed 0
        accesses := s.accesses ++ armAccesses .inp .ep0 s.epIn0 0 } := by
  simp [armIn_eq, logAll, setEp_inp_ep0, EpRegs.armed, armAccesses]

/-- The receive event pops the head word and branches on its status. -/
theorem exec_rxflvl_cons {s : State} {w : Word} {rest : List Word} (h : s.rxFifo = w :: rest) :
    exec .rxflvl s =
      exec (decodeRxsts s.cfg w) { s with rxFifo := rest, accesses := s.accesses ++ [.popRx w] } := by
  have hpop : exec .rxflvl s =
      dispatchReceive (RxStatus.ofWord s.cfg.regmap w) (logAll [.popRx w] (s.setRxFifo rest)) := by
    simp only [exec, execRxflvl, popRx_cons h, andThen_next]
  rw [hpop]
  simp only [decodeRxsts, exec_ite]
  rfl

/-- Settles O21, from arming endpoint 0 OUT in closed form. -/
theorem setupDoneResult : Obligations.SetupDoneResult := by
  have hdone : ∀ (s : State) (st : RxStatus), exec (.setupDone st) s = .next { s with
      epOut0 := s.epOut0.armed 64
      accesses := s.accesses ++ armAccesses .out .ep0 s.epOut0 64 } := fun s _ => by
    simp only [exec, execSetupDone, armOut_ep0_eq]
  refine fun s => ⟨hdone s, fun w rest hq hd hne => ?_⟩
  rw [exec_rxflvl_cons hq]
  simp only [decodeRxsts, if_neg hne, if_pos hd, hdone]

/-- Settles O23: the event is no operation, and the decoder selects it for every other code. -/
theorem pktstsOtherIgnored : Obligations.PktstsOtherIgnored := by
  refine fun s => ⟨fun _ => rfl, fun w rest hq hs hd ho => ?_⟩
  rw [exec_rxflvl_cons hq]
  simp only [decodeRxsts, if_neg hs, if_neg hd, if_neg ho]
  rfl

/-! ## Requests answered by a stall -/

theorem stall_inp_ep0_eq (s : State) :
    stall .inp .ep0 s =
      { s with epIn0 := s.epIn0.stalled, accesses := s.accesses ++ stallAccesses .inp s.epIn0 } := by
  simp [stall_eq, logAll, setEp_inp_ep0, EpRegs.stalled, stallAccesses]

theorem stall_out_ep0_eq (s : State) :
    stall .out .ep0 s =
      { s with epOut0 := s.epOut0.stalled, accesses := s.accesses ++ stallAccesses .out s.epOut0 } := by
  simp [stall_eq, logAll, setEp_out_ep0, EpRegs.stalled, stallAccesses]

/-- Settles O25, from the third test of the decoder and the stall in closed form. -/
theorem getDescriptorOtherStallsIn : Obligations.GetDescriptorOtherStallsIn := by
  refine ⟨fun c p ht hr h1 h2 => ?_, fun s p => ?_⟩
  · simp_all [decodeSetup, reqGetDescriptor, dtDevice, dtConfiguration]
  · simp [exec, execGetDescriptorOther, stallEp0In, stall_inp_ep0_eq, setupReceived, Ctx.dropped]

/-- A request of a type the configuration refuses, of no listed code, or a SET_INTERFACE to no interface passes no test of
the decoder but the last. -/
theorem decodeSetup_of_not_listed {c : Config} {p : SetupPacket} (h : p.listed c = false) :
    decodeSetup c p = .unsupportedRequest p := by
  simp only [SetupPacket.listed, SetupPacket.asksInterface, Bool.and_eq_false_iff, Bool.or_eq_false_iff] at h
  obtain ht | ⟨⟨⟨hg, ha⟩, hc⟩, hi⟩ := h
  · simp [decodeSetup, ht]
  · obtain hi | hi := hi <;> simp [decodeSetup, hg, ha, hc, hi]

/-- Settles O31: such a request is not listed, and the two stalls are in closed form. -/
theorem unsupportedRequestStallsBoth : Obligations.UnsupportedRequestStallsBoth := by
  refine ⟨fun c p h => decodeSetup_of_not_listed ?_, fun s p => ?_⟩
  · obtain ⟨hc, ht⟩ | ⟨ha, hg, hs, hi⟩ := h
    · simp_all [SetupPacket.listed, SetupPacket.typeAllowed]
    · obtain hi | ⟨hc, hr⟩ := hi <;>
        simp_all [SetupPacket.listed, SetupPacket.asksInterface, SetupPacket.recipientAllowed, reqGetDescriptor,
          reqSetAddress, reqSetConfiguration, reqSetInterface]
  · simp [exec, execUnsupportedRequest, stallEp0Both, stall_inp_ep0_eq, stall_out_ep0_eq, setupReceived, Ctx.dropped]

/-! ## Requests answered by a status packet -/

/-- The status response in closed form. -/
theorem sendStatus_record (s : State) :
    sendStatus s =
      .next { s with
        cteState := .statusPending
        epIn0 := s.epIn0.armed 0
        accesses := s.accesses ++ armAccesses .inp .ep0 s.epIn0 0 } := by
  rw [sendStatus_eq, armIn_zero_eq]

theorem deviceAddress_eq (p : SetupPacket) : p.deviceAddress = BitVec.ofNat 7 (p.value.toNat % 128) := by
  apply BitVec.eq_of_toNat_eq
  simp [SetupPacket.deviceAddress, BitVec.extractLsb'_toNat]

/-- Settles O26, from the fourth test of the decoder, the address write and the status response. -/
theorem setAddressWritesTheAddress : Obligations.SetAddressWritesTheAddress := by
  refine ⟨fun c p ht hr => ?_, fun s p => ?_⟩
  · simp [decodeSetup, ht, hr, reqGetDescriptor, reqSetAddress]
  · simp [exec, execSetAddress, updateAddr_eq, sendStatus_record, setupReceived, logAll, deviceAddress_eq, Ctx.dropped]

/-- Settles O27, from the fifth test of the decoder and the status response. -/
theorem setConfigurationAcknowledges : Obligations.SetConfigurationAcknowledges := by
  refine ⟨fun c p ht hr => ?_, fun s p => ?_⟩
  · simp [decodeSetup, ht, hr, reqGetDescriptor, reqSetAddress, reqSetConfiguration]
  · simp [exec, execSetConfiguration, sendStatus_record, setupReceived, Ctx.dropped]

theorem recipientAllowed_of_interface (c : Config) {p : SetupPacket} (h : p.recipient = 1) :
    p.recipientAllowed c = true := by
  simp [SetupPacket.recipientAllowed, h]

/-- What the decoder asks of a SET_INTERFACE to an interface. -/
theorem decodeSetup_setInterface {c : Config} {p : SetupPacket} (ht : p.typeAllowed c = true) (hr : p.request = 0x0B)
    (hp : p.recipientAllowed c = true) :
    decodeSetup c p =
      if p.index = 1 ∧ p.value = 0 then .setInterfaceAsOff p
      else if p.index = 1 ∧ p.value = c.asAltActive then .setInterfaceAsOn p
      else .setInterfaceOther p := by
  simp [decodeSetup, ht, hr, hp, reqGetDescriptor, reqSetAddress, reqSetConfiguration, reqSetInterface,
    SetupPacket.interfaceNumber, SetupPacket.alternateSetting, asInterface]

/-- Settles O28, from the disabling of the streaming pair and the status response. -/
theorem setInterfaceOffDisablesStreaming : Obligations.SetInterfaceOffDisablesStreaming := by
  refine ⟨fun c p ht hr hp hi hv => ?_, fun s p => ?_⟩
  · rw [decodeSetup_setInterface ht hr (recipientAllowed_of_interface c hp), if_pos ⟨hi, hv⟩]
  · simp [exec, execSetInterfaceAsOff, disableStreaming_eq, sendStatus_record, setupReceived, logAll, Ctx.dropped,
      EpRegs.disabled, disableAccesses]

/-- Settles O29, from the enabling of the streaming pair and the status response. -/
theorem setInterfaceOnEnablesStreaming : Obligations.SetInterfaceOnEnablesStreaming := by
  refine ⟨fun c p ht h0 hr hp hi hv => ?_, fun s p => ?_⟩
  · rw [decodeSetup_setInterface ht hr (recipientAllowed_of_interface c hp),
      if_neg (fun h => h0 (hv ▸ h.2)), if_pos ⟨hi, hv⟩]
  · simp [exec, execSetInterfaceAsOn, enableStreaming_eq, sendStatus_record, setupReceived, logAll, Ctx.dropped]

/-- Settles O30: the last of the three SET_INTERFACE answers is the status response alone. -/
theorem setInterfaceOtherAcknowledges : Obligations.SetInterfaceOtherAcknowledges := by
  refine ⟨fun c p ht hr hp h => ?_, fun s p => ?_⟩
  · rw [decodeSetup_setInterface ht hr (recipientAllowed_of_interface c hp), if_neg (by tauto),
      if_neg (by tauto)]
  · simp [exec, execSetInterfaceOther, sendStatus_record, setupReceived, Ctx.dropped]

end Sys2Proof.Machine
end

section
/-! The receive events that take data words (44_interrupt_dispatcher.md rules R233 to R238): what they leave when the words are
there, and the stop when they are not (40_fifo_access.md rule R130). -/

namespace Sys2Proof.Machine

/-! ## SETUP packets -/

/-- Two neighbouring bytes of a word are the half word they make up. -/
theorem extract_bytes_append (w : Word) (lo : Nat) :
    w.extractLsb' (lo + 8) 8 ++ w.extractLsb' lo 8 = w.extractLsb' lo 16 := by
  rw [BitVec.extractLsb'_append_extractLsb'_eq_extractLsb' rfl]

/-- The packet of the eight bytes of two words is the packet of the words. -/
theorem ofByteList_unpackBytes (w0 w1 : Word) :
    SetupPacket.ofByteList (unpackBytes 8 [w0, w1]) = SetupPacket.ofWords w0 w1 := by
  simp only [SetupPacket.ofByteList, unpackBytes, wordBytes, SetupPacket.ofBytes, SetupPacket.ofWords,
    List.flatMap_cons, List.flatMap_nil, List.cons_append, List.nil_append, List.take, List.getD_cons_zero,
    List.getD_cons_succ, SetupPacket.mk.injEq, true_and]
  exact ⟨extract_bytes_append w0 16, extract_bytes_append w1 0, extract_bytes_append w1 16⟩

/-- With its two data words queued a SETUP entry runs the request they decode to. -/
theorem exec_setupRx_cons {s : State} {w0 w1 : Word} {rest : List Word} (st : RxStatus)
    (h : s.rxFifo = w0 :: w1 :: rest) :
    exec (.setupRx st) s =
      exec (decodeSetup s.cfg (SetupPacket.ofWords w0 w1))
        { s with rxFifo := rest, accesses := s.accesses ++ [.popRx w0, .popRx w1] } := by
  have hpop : exec (.setupRx st) s = dispatchSetup (SetupPacket.ofByteList (unpackBytes 8 [w0, w1]))
      (logAll [.popRx w0, .popRx w1] (s.setRxFifo rest)) := by
    simp [exec, execSetupRx, popBytes_eq 8 s (by simp [h, ceil4]), h, ceil4]
  rw [hpop, dispatchSetup_eq_exec, ofByteList_unpackBytes]
  rfl

/-- Settles O11, from the pops of the status word and of the two data words. -/
theorem fetchedWordsSelectTheEvent : Obligations.FetchedWordsSelectTheEvent :=
  ⟨fun _ _ _ h => exec_rxflvl_cons h, fun _ st _ _ _ h => exec_setupRx_cons st h⟩

/-- A property of the nine events the decoder can read from a packet, all with that packet, is one of the event it
reads. -/
theorem decodeSetup_elim {P : Instr → Prop} (c : Config) (p : SetupPacket) (device : P (.getDescriptorDevice p))
    (configuration : P (.getDescriptorConfiguration p)) (other : P (.getDescriptorOther p))
    (address : P (.setAddress p)) (setConfiguration : P (.setConfiguration p)) (off : P (.setInterfaceAsOff p))
    (on : P (.setInterfaceAsOn p)) (interfaceOther : P (.setInterfaceOther p))
    (unsupported : P (.unsupportedRequest p)) : P (decodeSetup c p) := by
  unfold decodeSetup
  split_ifs <;> assumption

/-! ## OUT packets -/

/-- The drain of an OUT entry whose words are queued. -/
theorem exec_outRx_eq {s : State} {st : RxStatus} (h : ceil4 st.bcnt.toNat ≤ s.rxFifo.length) :
    exec (.outRx st) s =
      let t := { s with
        rxFifo := s.rxFifo.drop (ceil4 st.bcnt.toNat)
        accesses := s.accesses ++ (s.rxFifo.take (ceil4 st.bcnt.toNat)).map Access.popRx }
      if st.epnum = 0 then .next (armOut .ep0 t)
      else if st.epnum = s.cfg.epStream ∧ s.streamingEnabled = true then .next (armOut .stream t)
      else .next t := by
  simp only [exec, execOutRx, drain_eq _ _ h, andThen_next]
  rfl

/-- Settles O22, from the drain and the arming of either endpoint in closed form. -/
theorem outRxDrainsAndRearms : Obligations.OutRxDrainsAndRearms := by
  intro s st h
  refine ⟨fun h0 => ?_, fun h0 hs hon => ?_, fun h0 hs => ?_⟩ <;> rw [exec_outRx_eq h]
  · simp only [if_pos h0, armOut_ep0_eq]
  · simp only [if_neg h0, if_pos (And.intro hs hon), armOut_stream_eq]
  · have hoff : ¬(st.epnum = s.cfg.epStream ∧ s.streamingEnabled = true) := by simpa [imp_iff_not_or] using hs
    simp only [if_neg h0, if_neg hoff]

/-! ## Stops -/

/-- A stop ends the operation it occurs in. -/
theorem andThen_of_fault {α β : Type} {r : Result α} {f : Fault} (h : r = .fault f) (k : α → Result β) :
    andThen r k = .fault f := by
  rw [h, andThen_fault]

/-- Settles O32: each of the three events pops first, and popping past the end of the queue stops. -/
theorem rxUnderflowStops : Obligations.RxUnderflowStops := by
  refine fun s => ⟨fun h => ⟨_, andThen_of_fault (popRx_nil h) _, rfl⟩, fun st h => ?_, fun st h => ?_⟩
  · obtain ⟨u, hu, hf, hq⟩ := popWords_underflow (ceil4 8) s h
    exact ⟨u, andThen_of_fault (andThen_of_fault hu _) _, hf, hq⟩
  · obtain ⟨u, hu, hf, hq⟩ := popWords_underflow _ s h
    exact ⟨u, andThen_of_fault (andThen_of_fault hu _) _, hf, hq⟩

end Sys2Proof.Machine
end

section
/-! The packets the Control Transfer Engine sends (42_control_transfer_engine.md rules R173 to R180): the first one of a
response, the next one and the last at a completion, and where they stop. -/

namespace Sys2Proof.Machine

/-! ## The first packet of a response -/

/-- A request for descriptor `src`. -/
def Instr.descriptorRequest (p : SetupPacket) : Src → Instr
  | .dev => .getDescriptorDevice p
  | .cfg => .getDescriptorConfiguration p

/-- The two requests differ in the descriptor alone. -/
theorem exec_descriptorRequest (p : SetupPacket) (src : Src) (s : State) :
    exec (Instr.descriptorRequest p src) s = startTx src (setupReceived p s) := by
  cases src <;> rfl

/-- The context a response begins with (rule R174). -/
def responseContext (src : Src) (total : Nat) : Ctx := ⟨src, 0, BitVec.ofNat 16 total, ep0Mps, false⟩

/-- The state in which the first chunk of a response is sent (rules R172 to R174). -/
def responseOpened (src : Src) (p : SetupPacket) (s : State) : State :=
  { s with
    setup := p
    ctx := responseContext src (min p.length.toNat (s.store src).length)
    cteState := .txInProgress }

theorem startTx_setupReceived (src : Src) (p : SetupPacket) (s : State) :
    startTx src (setupReceived p s) = sendChunk (responseOpened src p s) := rfl

/-- The host caps a response below 2^16 bytes, so its length fits the context. -/
theorem responseContext_remaining (src : Src) (p : SetupPacket) (n : Nat) :
    (responseContext src (min p.length.toNat n)).remaining.toNat = min p.length.toNat n := by
  have := p.length.isLt
  simp only [responseContext, BitVec.toNat_ofNat]
  omega

theorem responseContext_chunk (src : Src) (p : SetupPacket) (n : Nat) :
    (responseContext src (min p.length.toNat n)).chunk = firstChunk (min p.length.toNat n) := by
  rw [Ctx.chunk, responseContext_remaining]
  rfl

theorem firstChunk_le (total : Nat) : firstChunk total ≤ total := Nat.min_le_right ..

/-- `zlp_wanted` looks at the policy and the host's cap alone. -/
theorem zlpWanted_eq (s : State) (sent : Nat) :
    zlpWanted s sent = zlpWantedFor s.cfg.zlpPolicy sent s.setup.length.toNat := rfl

/-- The context after the first chunk (rule R175). -/
theorem advance_responseOpened (src : Src) (p : SetupPacket) (s : State) :
    (advance (firstChunk (min p.length.toNat (s.store src).length)) (responseOpened src p s)).ctx =
      (responseStarted src p s).ctx := by
  have hrem := responseContext_remaining src p (s.store src).length
  have hzlp : (min p.length.toNat (s.store src).length -
        firstChunk (min p.length.toNat (s.store src).length) = 0 ∧
      firstChunk (min p.length.toNat (s.store src).length) = 64) ↔ min p.length.toNat (s.store src).length = 64 := by
    unfold firstChunk
    omega
  generalize hn : min p.length.toNat (s.store src).length = n at *
  simp only [advance, responseOpened, hn, hrem, responseStarted, zlpWanted_eq]
  simp only [responseContext, Ctx.mk.injEq, true_and, Bool.false_or]
  refine ⟨by simp, rfl, ?_⟩
  have h64 : ep0Mps.toNat = 64 := rfl
  by_cases h : n = 64
  · subst h
    simp [firstChunk, h64]
  · have hno : (n - firstChunk n == 0 && firstChunk n == ep0Mps.toNat) = false := by
      rw [← Bool.not_eq_true, Bool.and_eq_true, beq_iff_eq, beq_iff_eq, h64]
      exact fun hc => h (hzlp.mp hc)
    rw [hno, decide_eq_false h, Bool.false_and, Bool.false_and]

/-- With room for the first packet the response begins. -/
theorem exec_descriptorRequest_room {p : SetupPacket} {src : Src} {s : State}
    (h : firstChunk (min p.length.toNat (s.store src).length) = 0 ∨
      s.txFifo0.length + ceil4 (firstChunk (min p.length.toNat (s.store src).length)) ≤ s.cfg.txFifoDepth0.toNat) :
    exec (Instr.descriptorRequest p src) s = .next (responseStarted src p s) := by
  have hchunk := responseContext_chunk src p (s.store src).length
  have hle := firstChunk_le (min p.length.toNat (s.store src).length)
  rw [exec_descriptorRequest, startTx_setupReceived, sendChunk_record]
  · simp only [responseOpened, hchunk]
    rw [← responseOpened, advance_responseOpened]
    rfl
  · right
    change 0 + Ctx.chunk _ ≤ (s.store src).length
    simp only [responseOpened, hchunk]
    omega
  · simpa only [responseOpened, hchunk] using h

/-- Settles O24, from the first chunk sent and the context advanced. -/
theorem getDescriptorStartsTheResponse : Obligations.GetDescriptorStartsTheResponse :=
  fun _ p => ⟨exec_descriptorRequest_room (p := p) (src := .dev), exec_descriptorRequest_room (p := p) (src := .cfg)⟩

/-! ## A packet without room -/

theorem packBytes_take_length {bs : List Byte} {k : Nat} (h : k ≤ bs.length) :
    (packBytes (bs.take k)).length = ceil4 k := by
  rw [packBytes_length, List.length_take, Nat.min_eq_left h]

theorem pushWords_append (n : Ep) (us ws : List Word) (s : State) :
    pushWords n (us ++ ws) s = andThen (pushWords n us s) (pushWords n ws) := by
  induction us generalizing s with
  | nil => rfl
  | cons w us ih =>
    rw [List.cons_append, pushWords, pushWords, andThen_assoc]
    exact congrArg _ (funext ih)

/-- No room for all: the words that fit are in the queue when the step stops. -/
theorem pushWords_overflow_eq (n : Ep) (ws : List Word) (s : State) (hne : ws ≠ [])
    (h : s.txDepth n < (s.txFifo n).length + ws.length) :
    ∃ l, pushWords n ws s =
      .fault (.txOverflow n { logAll l (s.setTxFifo n (s.txFifo n ++ ws.take (s.txDepth n - (s.txFifo n).length))) with
        faults := s.faults.recordOverflow n }) := by
  have hpos : 0 < ws.length := List.length_pos_iff.mpr hne
  generalize hm : s.txDepth n - (s.txFifo n).length = m
  have hlt : m < ws.length := by omega
  have hsplit : ws = ws.take m ++ ws[m] :: ws.drop (m + 1) := by simp
  refine ⟨(ws.take m).map (Access.pushTx n), ?_⟩
  conv_lhs => rw [hsplit]
  rw [pushWords_append, pushWords_eq n (ws.take m) s, andThen_next, pushWords, pushTx_full, andThen_fault]
  · cases n <;> rfl
  · simp only [logAll_txDepth, setTxFifo_txDepth, logAll_txFifo, txFifo_setTxFifo_same, List.length_append,
      List.length_take]
    omega
  · rw [← List.length_eq_zero_iff, List.length_take]
    omega

/-- The packet marked and armed, before its data. -/
theorem armIn_markStale (k : Nat) (s : State) :
    armIn .ep0 k (markStale k s) =
      { s with
        epIn0 := s.epIn0.armed (BitVec.ofNat 19 k)
        faults := staleFaults s.faults k s.txFifo0
        accesses := s.accesses ++ armAccesses .inp .ep0 s.epIn0 (BitVec.ofNat 19 k) } := by
  unfold markStale staleFaults
  split_ifs <;> simp [armIn_eq, recordStale, EpRegs.armed, logAll, setEp_inp_ep0, armAccesses]

/-- A packet without room stops with the fault recorded, the packet armed and marked and the queue filled up. -/
theorem sendInPacket_full {k : Nat} {src : Src} {off : Nat} {s : State} (hk : k ≠ 0)
    (hd : off + k ≤ (s.store src).length) (hr : s.cfg.txFifoDepth0.toNat < s.txFifo0.length + ceil4 k) :
    ∃ l, sendInPacket k src off s = .fault (.txOverflow .ep0 { s with
      epIn0 := s.epIn0.armed (BitVec.ofNat 19 k)
      txFifo0 := s.txFifo0 ++
        (packBytes (((s.store src).drop off).take k)).take (s.cfg.txFifoDepth0.toNat - s.txFifo0.length)
      faults := { staleFaults s.faults k s.txFifo0 with txOverflow0 := true }
      accesses := l }) := by
  have hlen : (packBytes (((s.store src).drop off).take k)).length = ceil4 k :=
    packBytes_take_length (by rw [List.length_drop]; omega)
  have hne : packBytes (((s.store src).drop off).take k) ≠ [] := by
    rw [← List.length_pos_iff, hlen, ceil4]
    omega
  unfold sendInPacket pushBytes
  rw [readDesc_eq src off k _ (Or.inr (by simpa using hd)), andThen_next, armIn_store, markStale_store,
    armIn_markStale]
  obtain ⟨l, hl⟩ := pushWords_overflow_eq .ep0 _
    (logAll ((List.range k).map (fun i => Access.desc src (off + i))) { s with
      epIn0 := s.epIn0.armed (BitVec.ofNat 19 k)
      faults := staleFaults s.faults k s.txFifo0
      accesses := s.accesses ++ armAccesses .inp .ep0 s.epIn0 (BitVec.ofNat 19 k) }) hne (by rw [hlen]; exact hr)
  exact ⟨_, hl⟩

/-- A chunk without room stops so, the context not advanced. -/
theorem sendChunk_full {s : State} (hk : s.ctx.chunk ≠ 0)
    (hd : s.ctx.offset.toNat + s.ctx.chunk ≤ (s.store s.ctx.src).length)
    (hr : s.cfg.txFifoDepth0.toNat < s.txFifo0.length + ceil4 s.ctx.chunk) :
    ∃ l, sendChunk s = .fault (.txOverflow .ep0 { s with
      epIn0 := s.epIn0.armed (BitVec.ofNat 19 s.ctx.chunk)
      txFifo0 := s.txFifo0 ++ (packBytes (((s.store s.ctx.src).drop s.ctx.offset.toNat).take s.ctx.chunk)).take
        (s.cfg.txFifoDepth0.toNat - s.txFifo0.length)
      faults := { staleFaults s.faults s.ctx.chunk s.txFifo0 with txOverflow0 := true }
      accesses := l }) := by
  obtain ⟨l, hl⟩ := sendInPacket_full hk hd hr
  exact ⟨l, andThen_of_fault hl _⟩

/-- The first packet of a response without room stops so. -/
theorem exec_descriptorRequest_full {p : SetupPacket} {src : Src} {s : State}
    (h0 : firstChunk (min p.length.toNat (s.store src).length) ≠ 0)
    (hr : s.cfg.txFifoDepth0.toNat <
      s.txFifo0.length + ceil4 (firstChunk (min p.length.toNat (s.store src).length))) :
    ∃ l, exec (Instr.descriptorRequest p src) s = .fault (.txOverflow .ep0 { responseOpened src p s with
      epIn0 := s.epIn0.armed (BitVec.ofNat 19 (firstChunk (min p.length.toNat (s.store src).length)))
      txFifo0 := s.txFifo0 ++
        (packBytes ((s.store src).take (firstChunk (min p.length.toNat (s.store src).length)))).take
          (s.cfg.txFifoDepth0.toNat - s.txFifo0.length)
      faults :=
        { staleFaults s.faults (firstChunk (min p.length.toNat (s.store src).length)) s.txFifo0 with
          txOverflow0 := true }
      accesses := l }) := by
  have hchunk : (responseOpened src p s).ctx.chunk = firstChunk (min p.length.toNat (s.store src).length) :=
    responseContext_chunk src p (s.store src).length
  have hle := firstChunk_le (min p.length.toNat (s.store src).length)
  rw [exec_descriptorRequest, startTx_setupReceived]
  obtain ⟨l, hl⟩ := sendChunk_full (s := responseOpened src p s) (hchunk ▸ h0)
    (by
      change 0 + _ ≤ (s.store src).length
      rw [hchunk]
      omega)
    (hchunk ▸ hr)
  rw [hl, hchunk]
  exact ⟨l, rfl⟩

/-- Settles O33, from the first chunk stopping with the queue filled up. -/
theorem getDescriptorWithoutRoomStops : Obligations.GetDescriptorWithoutRoomStops := by
  intro s p src i hi
  dsimp only
  intro h0 hle hfull
  obtain rfl : i = Instr.descriptorRequest p src := by
    obtain ⟨rfl, rfl⟩ | ⟨rfl, rfl⟩ := hi <;> rfl
  obtain ⟨l, hl⟩ := exec_descriptorRequest_full h0 hfull
  refine ⟨_, hl, rfl, rfl, rfl, rfl, rfl, ?_, rfl⟩
  rw [List.length_append, List.length_take,
    packBytes_take_length ((firstChunk_le _).trans (Nat.min_le_right ..))]
  omega

/-! ## A completion of endpoint 0 -/

/-- The scan of the two IN endpoints, the streaming half in closed form. -/
theorem exec_iepint_eq (s : State) :
    exec .iepint s = andThen (scanIn0 s) fun t => .next { t with
      epInS := t.epInS.acknowledged
      accesses := t.accesses ++ streamScanAccesses t.epInS } := by
  simp only [exec, execIepint, scanInStream_eq]

/-- Settles O16: the flag is read, and the streaming endpoint scanned. -/
theorem iepintWithoutEndpoint0Completion : Obligations.IepintWithoutEndpoint0Completion := by
  intro s h
  rw [exec_iepint_eq, scanIn0_eq, if_neg (by simp [h])]
  rfl

/-- The state in which a completion of endpoint 0 is handled: the flag read and acknowledged. -/
def completionTaken (s : State) : State :=
  { s with
    epIn0 := s.epIn0.acknowledged
    accesses := s.accesses ++ [.read (.epint .inp .ep0), .write (.epint .inp .ep0 true)] }

theorem exec_iepint_completion {s : State} (h : s.epIn0.xfrc = true) :
    exec .iepint s = andThen (inComplete (completionTaken s)) fun t => .next { t with
      epInS := t.epInS.acknowledged
      accesses := t.accesses ++ streamScanAccesses t.epInS } := by
  rw [exec_iepint_eq, scanIn0_eq, if_pos h]
  rfl

/-! What `in_complete` does, case by case (rule R180). -/

theorem inComplete_idle {s : State} (h : s.cteState = .idle) : inComplete s = .next { s with cteState := .idle } := by
  simp only [inComplete, h]
  rw [← h]

theorem inComplete_statusPending {s : State} (h : s.cteState = .statusPending) :
    inComplete s = .next { s with cteState := .idle } := by
  simp only [inComplete, h]

theorem inComplete_setupReceived {s : State} (h : s.cteState = .setupReceived) :
    inComplete s = .fault (.completionWhileDecoding s) := by
  simp only [inComplete, h]

theorem inComplete_chunk {s : State} (h : s.cteState = .txInProgress) (hr : s.ctx.remaining ≠ 0) :
    inComplete s = sendChunk s := by
  have hpos : 0 < s.ctx.remaining.toNat := Nat.pos_of_ne_zero fun h0 => hr (BitVec.eq_of_toNat_eq h0)
  simp only [inComplete, h, if_pos hpos]

theorem inComplete_zeroLength {s : State} (h : s.cteState = .txInProgress) (hr : s.ctx.remaining = 0)
    (hz : s.ctx.zlpPending = true) :
    inComplete s = .next { s with
      ctx := { s.ctx with zlpPending := false }
      epIn0 := s.epIn0.armed 0
      accesses := s.accesses ++ armAccesses .inp .ep0 s.epIn0 0 } := by
  simp [inComplete, h, hr, hz, sendZeroLength_eq, armIn_zero_eq]

theorem inComplete_end {s : State} (h : s.cteState = .txInProgress) (hr : s.ctx.remaining = 0)
    (hz : s.ctx.zlpPending = false) : inComplete s = .next { s with cteState := .idle } := by
  simp [inComplete, h, hr, hz]

/-- Settles O17: in each of the three cases `in_complete` goes to `Idle` and no more. -/
theorem iepintCompletionEndsTheTransfer : Obligations.IepintCompletionEndsTheTransfer := by
  intro s hx hc
  have hdone : inComplete (completionTaken s) = .next { completionTaken s with cteState := .idle } := by
    obtain hc | hc | ⟨hc, hr, hz⟩ := hc
    · exact inComplete_idle hc
    · exact inComplete_statusPending hc
    · exact inComplete_end hc hr hz
  rw [exec_iepint_completion hx, hdone]
  rfl

/-- Settles O19: `in_complete` arms the packet that is owed. -/
theorem iepintCompletionSendsTheZeroLengthPacket : Obligations.IepintCompletionSendsTheZeroLengthPacket := by
  intro s hx hc hr hz
  rw [exec_iepint_completion hx, inComplete_zeroLength (s := completionTaken s) hc hr hz]
  rfl

/-- Settles O18: `in_complete` sends the next chunk, which is inside the descriptor and has room. -/
theorem iepintCompletionSendsTheNextChunk : Obligations.IepintCompletionSendsTheNextChunk := by
  intro s hx hc hr k off bs hd hroom
  rw [exec_iepint_completion hx, inComplete_chunk (s := completionTaken s) hc hr,
    sendChunk_record (completionTaken s) (Or.inr hd) (Or.inr hroom), andThen_next]
  refine congrArg _ ?_
  rfl

/-- A chunk past the end of the descriptor stops. -/
theorem sendChunk_overrun {s : State} (hk : s.ctx.chunk ≠ 0)
    (h : (s.store s.ctx.src).length < s.ctx.offset.toNat + s.ctx.chunk) :
    ∃ u, sendChunk s = .fault (.descOverrun u) := by
  obtain ⟨u, hu⟩ := readDesc_overrun s.ctx.src s.ctx.offset.toNat s.ctx.chunk
    (armIn .ep0 s.ctx.chunk (markStale s.ctx.chunk s)) hk (by simpa using h)
  exact ⟨u, andThen_of_fault (andThen_of_fault hu _) _⟩

theorem chunk_ne_zero_remaining {x : Ctx} (h : x.chunk ≠ 0) : x.remaining ≠ 0 := by
  rintro h0
  simp [Ctx.chunk, h0] at h

/-- Settles O34: the three stops are those of `in_complete`, and the acknowledge before them leaves the queue, the
descriptors and the context. -/
theorem completionStops : Obligations.CompletionStops := by
  refine fun s hx => ⟨fun hc => ?_, fun hc hk hd => ?_, fun hc hk hd hr => ?_⟩ <;>
    simp only [exec_iepint_completion hx]
  · exact ⟨_, andThen_of_fault (inComplete_setupReceived (s := completionTaken s) hc) _⟩
  · obtain ⟨u, hu⟩ := sendChunk_overrun (s := completionTaken s) hk hd
    rw [inComplete_chunk (s := completionTaken s) hc (chunk_ne_zero_remaining hk)]
    exact ⟨u, andThen_of_fault hu _⟩
  · obtain ⟨l, hl⟩ := sendChunk_full (s := completionTaken s) hk hd hr
    rw [inComplete_chunk (s := completionTaken s) hc (chunk_ne_zero_remaining hk)]
    exact ⟨_, andThen_of_fault hl _, rfl, rfl⟩

end Sys2Proof.Machine
end

section
/-! What an event leaves when it completes, said once for each kind of event: what all of them keep, what a request does,
what a receive entry does, what a completion does. -/

namespace Sys2Proof.Machine

/-! ## What every event keeps -/

/-- Every fault of the one record is in the other. -/
def FaultRecord.Within (f g : FaultRecord) : Prop :=
  (f.rxUnderflow = true → g.rxUnderflow = true) ∧ (f.txOverflow0 = true → g.txOverflow0 = true) ∧
    (f.txOverflowS = true → g.txOverflowS = true) ∧ (f.txStale = true → g.txStale = true)

theorem FaultRecord.Within.refl (f : FaultRecord) : f.Within f := ⟨id, id, id, id⟩

theorem FaultRecord.Within.trans {f g h : FaultRecord} (hfg : f.Within g) (hgh : g.Within h) : f.Within h :=
  ⟨hgh.1 ∘ hfg.1, hgh.2.1 ∘ hfg.2.1, hgh.2.2.1 ∘ hfg.2.2.1, hgh.2.2.2 ∘ hfg.2.2.2⟩

theorem staleFaults_within (f : FaultRecord) (k : Nat) (q : List Word) : f.Within (staleFaults f k q) := by
  unfold staleFaults
  split_ifs
  · exact ⟨id, id, id, fun _ => rfl⟩
  · exact .refl f

/-- What no event of the engine changes, and how the rest of the record may change: faults are added alone, endpoint 0
keeps its packet size once it has it, the streaming endpoints are not stalled. -/
structure State.Keeps (s t : State) : Prop where
  fixed : s.SameFixed t
  wire : t.wire = s.wire
  schedule : t.schedule = s.schedule
  faults : s.faults.Within t.faults
  ep0Sized : s.ep0Sized → t.ep0Sized
  stallInS : t.epInS.ctl.stall = true → s.epInS.ctl.stall = true
  stallOutS : t.epOutS.ctl.stall = true → s.epOutS.ctl.stall = true

/-- None of the fixed fields is touched by the update from `s` to `t`. -/
theorem State.SameFixed.of_kept {s t : State} (cfg : t.cfg = s.cfg := by rfl) (gctl : t.gctl = s.gctl := by rfl)
    (gintReserved : t.gintReserved = s.gintReserved := by rfl) (gintmsk : t.gintmsk = s.gintmsk := by rfl)
    (rxfsiz : t.rxfsiz = s.rxfsiz := by rfl) (txfsiz0 : t.txfsiz0 = s.txfsiz0 := by rfl)
    (txfsizS : t.txfsizS = s.txfsizS := by rfl) (speed : t.devcfg.speed = s.devcfg.speed := by rfl)
    (depmsk : t.depmsk = s.depmsk := by rfl) : s.SameFixed t :=
  ⟨cfg, gctl, gintReserved, gintmsk, rxfsiz, txfsiz0, txfsizS, speed, depmsk⟩

theorem State.SameFixed.trans {s t u : State} (h : s.SameFixed t) (h' : t.SameFixed u) : s.SameFixed u where
  cfg := h'.cfg.trans h.cfg
  gctl := h'.gctl.trans h.gctl
  gintReserved := h'.gintReserved.trans h.gintReserved
  gintmsk := h'.gintmsk.trans h.gintmsk
  rxfsiz := h'.rxfsiz.trans h.rxfsiz
  txfsiz0 := h'.txfsiz0.trans h.txfsiz0
  txfsizS := h'.txfsizS.trans h.txfsizS
  speed := h'.speed.trans h.speed
  depmsk := h'.depmsk.trans h.depmsk

namespace State.Keeps

variable {s t u : State}

/-- Nothing the relation looks at is touched by the update, but for what is said otherwise. -/
theorem of_kept (fixed : s.SameFixed t := by exact .of_kept) (wire : t.wire = s.wire := by rfl)
    (schedule : t.schedule = s.schedule := by rfl) (faults : s.faults.Within t.faults := by exact .refl _)
    (ep0Sized : s.ep0Sized → t.ep0Sized := by exact id)
    (stallInS : t.epInS.ctl.stall = true → s.epInS.ctl.stall = true := by exact id)
    (stallOutS : t.epOutS.ctl.stall = true → s.epOutS.ctl.stall = true := by exact id) : s.Keeps t :=
  ⟨fixed, wire, schedule, faults, ep0Sized, stallInS, stallOutS⟩

theorem refl (s : State) : s.Keeps s := .of_kept

theorem trans (h : s.Keeps t) (h' : t.Keeps u) : s.Keeps u where
  fixed := h.fixed.trans h'.fixed
  wire := h'.wire.trans h.wire
  schedule := h'.schedule.trans h.schedule
  faults := h.faults.trans h'.faults
  ep0Sized := h'.ep0Sized ∘ h.ep0Sized
  stallInS := h.stallInS ∘ h'.stallInS
  stallOutS := h.stallOutS ∘ h'.stallOutS

end State.Keeps

/-! ## Requests -/

/-- The state a request leaves the Control Transfer Engine in (rule R171, rows 1 to 4). -/
def cteOfRequest : Instr → CteState
  | .getDescriptorDevice _ | .getDescriptorConfiguration _ => .txInProgress
  | .setAddress _ | .setConfiguration _ | .setInterfaceAsOff _ | .setInterfaceAsOn _ | .setInterfaceOther _ =>
      .statusPending
  | _ => .idle

theorem cteAfterSetup_eq (c : Config) (p : SetupPacket) : cteAfterSetup c p = cteOfRequest (decodeSetup c p) := by
  unfold cteAfterSetup cteOfRequest
  split <;> simp_all

/-- Endpoint 0 is stalled, or has a packet to answer the host with. -/
def State.Answered (t : State) : Prop :=
  (t.cteState = .idle ∧ t.epIn0.ctl.stall = true) ∨
    ((t.cteState = .txInProgress ∨ t.cteState = .statusPending) ∧ t.epIn0.ctl.enabled = true ∧
      t.epIn0.ctl.nak = false ∧ t.epIn0.tsiz.pktcnt = 1)

/-- What the event `i` of the packet `p` leaves. -/
structure Requested (p : SetupPacket) (i : Instr) (s t : State) : Prop where
  keeps : s.Keeps t
  rxFifo : t.rxFifo = s.rxFifo
  setup : t.setup = p
  cteState : t.cteState = cteOfRequest i
  answered : t.Answered
  addr : t.devcfg.addr = s.devcfg.addr ∨
    i = .setAddress p ∧ t.devcfg.addr = BitVec.ofNat 7 (p.value.toNat % 128)
  stallIn : t.epIn0.ctl.stall = s.epIn0.ctl.stall ∨
    t.epIn0.ctl.stall = true ∧ (i = .getDescriptorOther p ∨ i = .unsupportedRequest p)
  stallOut : t.epOut0.ctl.stall = s.epOut0.ctl.stall ∨ t.epOut0.ctl.stall = true ∧ i = .unsupportedRequest p

/-- A descriptor request that completes has begun its response, with room for the first packet. -/
theorem exec_descriptorRequest_next {p : SetupPacket} {src : Src} {s t : State}
    (h : exec (Instr.descriptorRequest p src) s = .next t) :
    t = responseStarted src p s ∧
      (firstChunk (min p.length.toNat (s.store src).length) = 0 ∨
        s.txFifo0.length + ceil4 (firstChunk (min p.length.toNat (s.store src).length)) ≤
          s.cfg.txFifoDepth0.toNat) := by
  by_cases hroom : firstChunk (min p.length.toNat (s.store src).length) = 0 ∨
      s.txFifo0.length + ceil4 (firstChunk (min p.length.toNat (s.store src).length)) ≤ s.cfg.txFifoDepth0.toNat
  · rw [exec_descriptorRequest_room hroom] at h
    cases h
    exact ⟨rfl, hroom⟩
  · obtain ⟨h0, hfull⟩ := not_or.mp hroom
    obtain ⟨l, hl⟩ := exec_descriptorRequest_full h0 (not_le.mp hfull)
    rw [hl] at h
    cases h

theorem responseStarted_requested (src : Src) (p : SetupPacket) (s : State) :
    Requested p (Instr.descriptorRequest p src) s (responseStarted src p s) where
  keeps := .of_kept (faults := staleFaults_within ..)
  rxFifo := rfl
  setup := rfl
  cteState := by cases src <;> rfl
  answered := .inr ⟨.inl rfl, rfl, rfl, rfl⟩
  addr := .inl rfl
  stallIn := .inl rfl
  stallOut := .inl rfl

/-- What the event of a packet leaves, for each of the nine events. -/
theorem exec_decodeSetup_next (c : Config) (p : SetupPacket) {s t : State}
    (h : exec (decodeSetup c p) s = .next t) : Requested p (decodeSetup c p) s t := by
  refine decodeSetup_elim (P := fun i => exec i s = .next t → Requested p i s t) c p
    ?device ?configuration ?other ?address ?setConfiguration ?off ?on ?interfaceOther ?unsupported h
  case device =>
    intro h
    obtain ⟨rfl, -⟩ := exec_descriptorRequest_next (src := .dev) h
    exact responseStarted_requested .dev p s
  case configuration =>
    intro h
    obtain ⟨rfl, -⟩ := exec_descriptorRequest_next (src := .cfg) h
    exact responseStarted_requested .cfg p s
  case other =>
    intro h
    rw [getDescriptorOtherStallsIn.2] at h
    cases h
    exact ⟨.of_kept, rfl, rfl, rfl, .inl ⟨rfl, rfl⟩, .inl rfl, .inr ⟨rfl, .inl rfl⟩, .inl rfl⟩
  case address =>
    intro h
    rw [setAddressWritesTheAddress.2] at h
    cases h
    exact ⟨.of_kept, rfl, rfl, rfl, .inr ⟨.inr rfl, rfl, rfl, rfl⟩, .inr ⟨rfl, rfl⟩,
      .inl rfl, .inl rfl⟩
  case setConfiguration =>
    intro h
    rw [setConfigurationAcknowledges.2] at h
    cases h
    exact ⟨.of_kept, rfl, rfl, rfl, .inr ⟨.inr rfl, rfl, rfl, rfl⟩, .inl rfl, .inl rfl, .inl rfl⟩
  case off =>
    intro h
    rw [setInterfaceOffDisablesStreaming.2] at h
    cases h
    exact ⟨.of_kept, rfl, rfl, rfl, .inr ⟨.inr rfl, rfl, rfl, rfl⟩, .inl rfl, .inl rfl, .inl rfl⟩
  case on =>
    intro h
    rw [setInterfaceOnEnablesStreaming.2] at h
    cases h
    exact ⟨.of_kept (stallInS := nofun) (stallOutS := nofun), rfl, rfl, rfl, .inr ⟨.inr rfl, rfl, rfl, rfl⟩,
      .inl rfl, .inl rfl, .inl rfl⟩
  case interfaceOther =>
    intro h
    rw [setInterfaceOtherAcknowledges.2] at h
    cases h
    exact ⟨.of_kept, rfl, rfl, rfl, .inr ⟨.inr rfl, rfl, rfl, rfl⟩, .inl rfl, .inl rfl, .inl rfl⟩
  case unsupported =>
    intro h
    rw [unsupportedRequestStallsBoth.2] at h
    cases h
    exact ⟨.of_kept, rfl, rfl, rfl, .inl ⟨rfl, rfl⟩, .inl rfl, .inr ⟨rfl, .inr rfl⟩,
      .inr ⟨rfl, rfl⟩⟩

/-- With room for one packet in TX FIFO 0 the event of a packet completes. -/
theorem exec_decodeSetup_room (c : Config) (p : SetupPacket) {s : State}
    (h : s.txFifo0.length + 16 ≤ s.cfg.txFifoDepth0.toNat) : ∃ t, exec (decodeSetup c p) s = .next t := by
  have hfits : ∀ src, s.txFifo0.length + ceil4 (firstChunk (min p.length.toNat (s.store src).length)) ≤
      s.cfg.txFifoDepth0.toNat := by
    intro src
    unfold ceil4 firstChunk
    omega
  exact decodeSetup_elim (P := fun i => ∃ t, exec i s = .next t) c p
    (device := ⟨_, exec_descriptorRequest_room (src := .dev) (.inr (hfits .dev))⟩)
    (configuration := ⟨_, exec_descriptorRequest_room (src := .cfg) (.inr (hfits .cfg))⟩)
    (other := ⟨_, getDescriptorOtherStallsIn.2 s p⟩) (address := ⟨_, setAddressWritesTheAddress.2 s p⟩)
    (setConfiguration := ⟨_, setConfigurationAcknowledges.2 s p⟩)
    (off := ⟨_, setInterfaceOffDisablesStreaming.2 s p⟩) (on := ⟨_, setInterfaceOnEnablesStreaming.2 s p⟩)
    (interfaceOther := ⟨_, setInterfaceOtherAcknowledges.2 s p⟩)
    (unsupported := ⟨_, unsupportedRequestStallsBoth.2 s p⟩)

/-- Settles O20: the two words select a request, which has room and answers. -/
theorem setupRxAnswersEveryPacket : Obligations.SetupRxAnswersEveryPacket := by
  intro s st w0 w1 rest hq hroom
  rw [exec_setupRx_cons st hq]
  obtain ⟨t, ht⟩ := exec_decodeSetup_room s.cfg (SetupPacket.ofWords w0 w1)
    (s := { s with rxFifo := rest, accesses := s.accesses ++ [.popRx w0, .popRx w1] }) hroom
  have hreq := exec_decodeSetup_next _ _ ht
  exact ⟨t, ht, hreq.rxFifo, hreq.setup, hreq.answered⟩

/-! ## Receive entries -/

/-- What a receive event that removes `data` words leaves. -/
structure Received (data : Nat) (s t : State) : Prop where
  keeps : s.Keeps t
  length : data ≤ s.rxFifo.length
  rxFifo : t.rxFifo = s.rxFifo.drop data
  addr : t.devcfg.addr = s.devcfg.addr ∨
    decodeSetup t.cfg t.setup = .setAddress t.setup ∧ t.devcfg.addr = BitVec.ofNat 7 (t.setup.value.toNat % 128)
  stallIn : t.epIn0.ctl.stall = s.epIn0.ctl.stall ∨ t.epIn0.ctl.stall = true ∧
    (decodeSetup t.cfg t.setup = .getDescriptorOther t.setup ∨
      decodeSetup t.cfg t.setup = .unsupportedRequest t.setup)
  stallOut : t.epOut0.ctl.stall = s.epOut0.ctl.stall ∨ t.epOut0.ctl.stall = true ∧
    decodeSetup t.cfg t.setup = .unsupportedRequest t.setup

/-- A SETUP entry that is handled has its two data words. -/
theorem exec_setupRx_next {st : RxStatus} {s t : State} (h : exec (.setupRx st) s = .next t) :
    ∃ w0 w1 rest, s.rxFifo = w0 :: w1 :: rest ∧
      exec (decodeSetup s.cfg (SetupPacket.ofWords w0 w1))
        { s with rxFifo := rest, accesses := s.accesses ++ [.popRx w0, .popRx w1] } = .next t := by
  by_cases hlen : s.rxFifo.length < 2
  · obtain ⟨u, hu, -⟩ := (rxUnderflowStops s).2.1 st hlen
    rw [hu] at h
    cases h
  · match hq : s.rxFifo with
    | [] | [_] => simp [hq] at hlen
    | w0 :: w1 :: rest => exact ⟨w0, w1, rest, rfl, exec_setupRx_cons st hq ▸ h⟩

theorem exec_setupRx_received {st : RxStatus} {s t : State} (h : exec (.setupRx st) s = .next t) :
    Received 2 s t := by
  obtain ⟨w0, w1, rest, hq, ht⟩ := exec_setupRx_next h
  have hreq := exec_decodeSetup_next _ _ ht
  have hdec : decodeSetup t.cfg t.setup = decodeSetup s.cfg (SetupPacket.ofWords w0 w1) := by
    rw [hreq.keeps.fixed.cfg, hreq.setup]
  refine ⟨.trans .of_kept hreq.keeps, by simp [hq], by simp [hq, hreq.rxFifo], ?_, ?_, ?_⟩ <;>
    rw [hdec, hreq.setup]
  · exact hreq.addr
  · exact hreq.stallIn
  · exact hreq.stallOut

/-- The three ways an OUT entry can end. -/
theorem exec_outRx_received {st : RxStatus} {s t : State} (h : exec (.outRx st) s = .next t) :
    Received (ceil4 st.bcnt.toNat) s t := by
  by_cases hlen : s.rxFifo.length < ceil4 st.bcnt.toNat
  · obtain ⟨u, hu, -⟩ := (rxUnderflowStops s).2.2 st hlen
    rw [hu] at h
    cases h
  · rw [exec_outRx_eq (not_lt.mp hlen)] at h
    simp only [armOut_ep0_eq, armOut_stream_eq] at h
    split_ifs at h <;> cases h <;>
      exact ⟨.of_kept, not_lt.mp hlen, rfl, .inl rfl, .inl rfl, .inl rfl⟩

/-- A property of the four events the decoder can read from a status word is one of the event it reads, each with the
number of data words of its entry. -/
theorem decodeRxsts_elim {P : Instr → Nat → Prop} (c : Config) (w : Word)
    (setupRx : ∀ st, P (.setupRx st) 2) (setupDone : ∀ st, P (.setupDone st) 0)
    (outRx : ∀ st, P (.outRx st) (ceil4 st.bcnt.toNat)) (other : ∀ st, P (.pktstsOther st) 0) :
    P (decodeRxsts c w) (entryData c w) := by
  unfold decodeRxsts entryData
  dsimp only
  split_ifs
  · exact setupRx _
  · exact setupDone _
  · exact outRx _
  · exact other _

/-- What the event of a status word leaves. -/
theorem exec_decodeRxsts_next (c : Config) (w : Word) {s t : State} (h : exec (decodeRxsts c w) s = .next t) :
    Received (entryData c w) s t := by
  refine decodeRxsts_elim (P := fun i n => exec i s = .next t → Received n s t) c w
    (fun _ => exec_setupRx_received) ?done (fun _ => exec_outRx_received) ?other h
  case done =>
    intro st h
    rw [(setupDoneResult s).1] at h
    cases h
    exact ⟨.of_kept, Nat.zero_le _, rfl, .inl rfl, .inl rfl, .inl rfl⟩
  case other =>
    intro st h
    rw [(pktstsOtherIgnored s).1] at h
    cases h
    exact ⟨.refl s, Nat.zero_le _, rfl, .inl rfl, .inl rfl, .inl rfl⟩

/-- A receive entry that is handled is at the head of the queue. -/
theorem exec_rxflvl_next {s t : State} (h : exec .rxflvl s = .next t) :
    ∃ w rest, s.rxFifo = w :: rest ∧
      exec (decodeRxsts s.cfg w) { s with rxFifo := rest, accesses := s.accesses ++ [.popRx w] } = .next t := by
  match hq : s.rxFifo with
  | [] =>
    obtain ⟨u, hu, -⟩ := (rxUnderflowStops s).1 hq
    rw [hu] at h
    cases h
  | w :: rest => exact ⟨w, rest, rfl, exec_rxflvl_cons hq ▸ h⟩

/-- What handling a receive entry leaves: the entry of the status word at the head is gone, and the rest is its event's. -/
theorem exec_rxflvl_received {s t : State} (h : exec .rxflvl s = .next t) :
    ∃ w rest, s.rxFifo = w :: rest ∧ entryData s.cfg w ≤ rest.length ∧ Received (1 + entryData s.cfg w) s t := by
  obtain ⟨w, rest, hq, ht⟩ := exec_rxflvl_next h
  obtain ⟨hkeeps, hlen, hrx, haddr, hin, hout⟩ := exec_decodeRxsts_next _ _ ht
  have hlen' : entryData s.cfg w ≤ rest.length := hlen
  exact ⟨w, rest, hq, hlen, .trans .of_kept hkeeps, by rw [hq, List.length_cons]; omega,
    by rw [hrx, hq, Nat.add_comm, List.drop_succ_cons], haddr, hin, hout⟩

/-- With its data words queued and room for one packet the event of a status word completes. -/
theorem exec_decodeRxsts_room (c : Config) (w : Word) {s : State} (hlen : entryData c w ≤ s.rxFifo.length)
    (hroom : s.txFifo0.length + 16 ≤ s.cfg.txFifoDepth0.toNat) : ∃ t, exec (decodeRxsts c w) s = .next t := by
  refine decodeRxsts_elim (P := fun i n => n ≤ s.rxFifo.length → ∃ t, exec i s = .next t) c w
    ?setup (fun st _ => ⟨_, (setupDoneResult s).1 st⟩) ?out (fun st _ => ⟨_, (pktstsOtherIgnored s).1 st⟩) hlen
  case setup =>
    intro st hlen
    match hq : s.rxFifo with
    | [] | [_] => simp [hq] at hlen
    | w0 :: w1 :: rest =>
      obtain ⟨t, ht, -⟩ := setupRxAnswersEveryPacket s st w0 w1 rest hq hroom
      exact ⟨t, ht⟩
  case out =>
    intro st hlen
    rw [exec_outRx_eq hlen]
    dsimp only
    split_ifs <;> exact ⟨_, rfl⟩

/-- Settles O15: the event completes, and what it leaves of the queue is said of every receive entry. -/
theorem rxflvlTakesOneEntry : Obligations.RxflvlTakesOneEntry := by
  intro s w rest hq hlen hroom
  obtain ⟨t, ht⟩ : ∃ t, exec .rxflvl s = .next t :=
    exec_rxflvl_cons hq ▸ exec_decodeRxsts_room s.cfg w hlen hroom
  obtain ⟨w', rest', hq', -, hrec⟩ := exec_rxflvl_received ht
  obtain ⟨rfl, rfl⟩ : w = w' ∧ rest = rest' := by simpa [hq] using hq'
  exact ⟨t, ht, by rw [hrec.rxFifo, hq, Nat.add_comm, List.drop_succ_cons]⟩

/-! ## Completions and the other interrupt events -/

/-- The state `t` with the streaming endpoint scanned (rule R242). -/
def streamScanned (t : State) : State :=
  { t with epInS := t.epInS.acknowledged, accesses := t.accesses ++ streamScanAccesses t.epInS }

/-- The transfer at its end (rule R180). -/
def transferEnded (s : State) : State := { s with cteState := .idle }

/-- The zero-length packet that was owed sent, with the endpoint's accesses. -/
def zeroLengthSent (s : State) : State :=
  { s with
    ctx := { s.ctx with zlpPending := false }
    epIn0 := s.epIn0.armed 0
    accesses := s.accesses ++ armAccesses .inp .ep0 s.epIn0 0 }

/-- A chunk sent and the context advanced, with the endpoint's accesses. -/
def chunkSent (s : State) : State :=
  { s with
    ctx := (advance s.ctx.chunk s).ctx
    epIn0 := s.epIn0.armed (BitVec.ofNat 19 s.ctx.chunk)
    txFifo0 := s.txFifo0 ++ packBytes (((storeOf s.cfg s.ctx.src).drop s.ctx.offset.toNat).take s.ctx.chunk)
    faults := staleFaults s.faults s.ctx.chunk s.txFifo0
    accesses := s.accesses ++ packetAccesses s.epIn0 s.ctx.src s.ctx.offset.toNat
      (((storeOf s.cfg s.ctx.src).drop s.ctx.offset.toNat).take s.ctx.chunk) }

/-- A chunk that is sent is inside the descriptor and has room. -/
theorem sendChunk_next {s t : State} (h : sendChunk s = .next t) :
    t = chunkSent s ∧
      (s.ctx.chunk = 0 ∨ s.txFifo0.length + ceil4 s.ctx.chunk ≤ s.cfg.txFifoDepth0.toNat) := by
  by_cases hd : s.ctx.chunk = 0 ∨ s.ctx.offset.toNat + s.ctx.chunk ≤ (s.store s.ctx.src).length
  · by_cases hr : s.ctx.chunk = 0 ∨ s.txFifo0.length + ceil4 s.ctx.chunk ≤ s.cfg.txFifoDepth0.toNat
    · rw [sendChunk_record s hd hr] at h
      cases h
      exact ⟨rfl, hr⟩
    · obtain ⟨hk, hfull⟩ := not_or.mp hr
      obtain ⟨l, hl⟩ := sendChunk_full hk (hd.resolve_left hk) (not_le.mp hfull)
      rw [hl] at h
      cases h
  · obtain ⟨hk, hout⟩ := not_or.mp hd
    obtain ⟨u, hu⟩ := sendChunk_overrun hk (not_le.mp hout)
    rw [hu] at h
    cases h

/-- The three ways `in_complete` can complete (rule R171, rows 5 to 8 and 10). -/
theorem inComplete_next {s t : State} (h : inComplete s = .next t) :
    (t = transferEnded s ∧
      (s.cteState = .txInProgress → s.ctx.remaining = 0 ∧ s.ctx.zlpPending = false)) ∨
    (s.cteState = .txInProgress ∧ s.ctx.remaining = 0 ∧ s.ctx.zlpPending = true ∧
      t = zeroLengthSent s) ∨
    (s.cteState = .txInProgress ∧ s.ctx.remaining ≠ 0 ∧ t = chunkSent s ∧
      (s.ctx.chunk = 0 ∨ s.txFifo0.length + ceil4 s.ctx.chunk ≤ s.cfg.txFifoDepth0.toNat)) := by
  cases hc : s.cteState with
  | idle =>
    rw [inComplete_idle hc] at h
    cases h
    exact .inl ⟨rfl, nofun⟩
  | statusPending =>
    rw [inComplete_statusPending hc] at h
    cases h
    exact .inl ⟨rfl, nofun⟩
  | setupReceived =>
    rw [inComplete_setupReceived hc] at h
    cases h
  | txInProgress =>
    by_cases hr : s.ctx.remaining = 0
    · cases hz : s.ctx.zlpPending with
      | true =>
        rw [inComplete_zeroLength hc hr hz] at h
        cases h
        exact .inr (.inl ⟨rfl, hr, rfl, rfl⟩)
      | false =>
        rw [inComplete_end hc hr hz] at h
        cases h
        exact .inl ⟨rfl, fun _ => ⟨hr, rfl⟩⟩
    · rw [inComplete_chunk hc hr] at h
      exact .inr (.inr ⟨rfl, hr, sendChunk_next h⟩)

/-- IEPINT that completes: no flag of endpoint 0, or a completion of the transfer under way. -/
theorem exec_iepint_next {s t : State} (h : exec .iepint s = .next t) :
    (s.epIn0.xfrc = false ∧
      t = streamScanned { s with accesses := s.accesses ++ [.read (.epint .inp .ep0)] }) ∨
    (s.epIn0.xfrc = true ∧ ∃ u, inComplete (completionTaken s) = .next u ∧ t = streamScanned u) := by
  cases hx : s.epIn0.xfrc with
  | false =>
    rw [iepintWithoutEndpoint0Completion s hx] at h
    cases h
    exact .inl ⟨rfl, rfl⟩
  | true =>
    rw [exec_iepint_completion hx] at h
    obtain ⟨u, hu, ht⟩ := andThen_eq_next.mp h
    cases ht
    exact .inr ⟨rfl, u, hu, rfl⟩

/-- What ENUMDNE and IEPINT leave alone. -/
structure Continued (s t : State) : Prop where
  keeps : s.Keeps t
  rxFifo : t.rxFifo = s.rxFifo
  setup : t.setup = s.setup
  addr : t.devcfg.addr = s.devcfg.addr
  stallIn : t.epIn0.ctl.stall = s.epIn0.ctl.stall
  stallOut : t.epOut0.ctl.stall = s.epOut0.ctl.stall

theorem Continued.refl (s : State) : Continued s s := ⟨.refl s, rfl, rfl, rfl, rfl, rfl⟩

theorem Continued.trans {s t u : State} (h : Continued s t) (h' : Continued t u) : Continued s u where
  keeps := h.keeps.trans h'.keeps
  rxFifo := h'.rxFifo.trans h.rxFifo
  setup := h'.setup.trans h.setup
  addr := h'.addr.trans h.addr
  stallIn := h'.stallIn.trans h.stallIn
  stallOut := h'.stallOut.trans h.stallOut

theorem exec_enumdne_continued {s t : State} (h : exec .enumdne s = .next t) : Continued s t := by
  rw [enumdneResult.2] at h
  cases h
  exact ⟨.of_kept, rfl, rfl, rfl, rfl, rfl⟩

theorem streamScanned_continued (s : State) : Continued s (streamScanned s) := ⟨.of_kept, rfl, rfl, rfl, rfl, rfl⟩

theorem inComplete_continued {s t : State} (h : inComplete s = .next t) : Continued s t := by
  obtain ⟨rfl, -⟩ | ⟨-, -, -, rfl⟩ | ⟨-, -, rfl, -⟩ := inComplete_next h
  · exact ⟨.of_kept, rfl, rfl, rfl, rfl, rfl⟩
  · exact ⟨.of_kept, rfl, rfl, rfl, rfl, rfl⟩
  · exact ⟨.of_kept (faults := staleFaults_within ..), rfl, rfl, rfl, rfl, rfl⟩

theorem exec_iepint_continued {s t : State} (h : exec .iepint s = .next t) : Continued s t := by
  obtain ⟨-, rfl⟩ | ⟨-, u, hu, rfl⟩ := exec_iepint_next h
  · exact ⟨.of_kept, rfl, rfl, rfl, rfl, rfl⟩
  · have htaken : Continued s (completionTaken s) := ⟨.of_kept, rfl, rfl, rfl, rfl, rfl⟩
    exact htaken.trans ((inComplete_continued hu).trans (streamScanned_continued u))

/-- What a bus reset leaves. -/
structure BusReset (s t : State) : Prop where
  keeps : s.Keeps t
  rxFifo : t.rxFifo = s.rxFifo
  addr : t.devcfg.addr = 0
  stallIn : t.epIn0.ctl.stall = false
  stallOut : t.epOut0.ctl.stall = false
  sized : t.ep0Sized

theorem exec_usbrst_busReset {s t : State} (h : exec .usbrst s = .next t) : BusReset s t := by
  rw [usbrstResult.2] at h
  cases h
  exact ⟨.of_kept (ep0Sized := fun _ => ⟨rfl, rfl⟩), rfl, rfl, rfl, rfl, rfl, rfl⟩

/-! ## The transition table of the control state -/

/-- The control state after a completion (rule R171, rows 5 to 8 and 10). -/
theorem inComplete_cteState {s t : State} (h : inComplete s = .next t) :
    t.cteState = cteAfterComplete s.cteState s.ctx := by
  obtain ⟨rfl, hend⟩ | ⟨hc, hr, hz, rfl⟩ | ⟨hc, hr, rfl, -⟩ := inComplete_next h
  · cases hc : s.cteState with
    | txInProgress => simp [cteAfterComplete, hend hc, transferEnded]
    | idle | statusPending | setupReceived => rfl
  · simp [cteAfterComplete, hc, hr, hz, zeroLengthSent]
  · have hc' : (chunkSent s).cteState = .txInProgress := hc
    rw [hc', hc, cteAfterComplete, if_neg fun h => hr h.1]

/-- The events that leave the transfer alone. -/
theorem exec_keeps_transfer {i : Instr} {st : RxStatus} {s t : State}
    (hi : i = .enumdne ∨ i = .setupDone st ∨ i = .outRx st ∨ i = .pktstsOther st) (h : exec i s = .next t) :
    t.cteState = s.cteState ∧ t.ctx = s.ctx ∧ t.setup = s.setup := by
  obtain rfl | rfl | rfl | rfl := hi
  · rw [enumdneResult.2] at h
    cases h
    exact ⟨rfl, rfl, rfl⟩
  · rw [(setupDoneResult s).1] at h
    cases h
    exact ⟨rfl, rfl, rfl⟩
  · have hlen := (exec_outRx_received h).length
    rw [exec_outRx_eq hlen] at h
    simp only [armOut_ep0_eq, armOut_stream_eq] at h
    split_ifs at h <;> cases h <;> exact ⟨rfl, rfl, rfl⟩
  · rw [(pktstsOtherIgnored s).1] at h
    cases h
    exact ⟨rfl, rfl, rfl⟩

/-- Settles O51, row by row of the table. -/
theorem controlStateFollowsTheTransitionTable : Obligations.ControlStateFollowsTheTransitionTable := by
  refine fun s t => ⟨fun h => ?_, fun i st hi h => exec_keeps_transfer hi h, fun st w0 w1 rest hq h => ?_, fun h => ?_⟩
  · rw [usbrstResult.2] at h
    cases h
    exact ⟨rfl, rfl, rfl⟩
  · rw [exec_setupRx_cons st hq] at h
    rw [cteAfterSetup_eq]
    exact (exec_decodeSetup_next _ _ h).cteState
  · obtain ⟨hx, rfl⟩ | ⟨hx, u, hu, rfl⟩ := exec_iepint_next h
    · rw [if_neg (by simp [hx])]
      rfl
    · have hu := inComplete_cteState hu
      rw [if_pos hx]
      exact hu

end Sys2Proof.Machine
end

section
/-! The steps of the environment (45_environment.md): the result of each, the cases they share, and what none of them does
(rule R268). -/

namespace Sys2Proof.Machine

/-! ## Results -/

/-- Settles O35, from the acceptance test of rule R263 on either side. -/
theorem envSetupResult : Obligations.EnvSetupResult := by
  refine fun s p x => ⟨fun hen hroom => ?_, fun h => ?_⟩
  · simp [envStep, envSetup, rxRoom, hen, hroom, record, appendRx, rxStatusWord]
  · refine if_neg ?_
    simp only [rxRoom, Bool.and_eq_true, decide_eq_true_eq, not_and]
    obtain hen | hfull := h
    · simp [hen]
    · omega

/-- The endpoint has no packet for the host, in words. -/
theorem inNotReady_iff (s : State) (n : Ep) :
    inNotReady s n = true ↔ (s.ep .inp n).ctl.enabled = false ∨ (s.ep .inp n).ctl.nak = true ∨
      (s.ep .inp n).tsiz.pktcnt = 0 ∨ (s.txFifo n).length < ceil4 (s.ep .inp n).tsiz.xfrsiz.toNat := by
  simp [inNotReady, or_assoc]

/-- The endpoint cannot take a packet of `len` bytes, in words. -/
theorem outNotReady_iff (s : State) (n : Ep) (len : Nat) :
    outNotReady s n len = true ↔ (s.ep .out n).ctl.enabled = false ∨ (s.ep .out n).ctl.nak = true ∨
      (s.ep .out n).tsiz.pktcnt = 0 ∨ (s.ep .out n).tsiz.xfrsiz.toNat < len ∨
      s.cfg.rxFifoDepth.toNat < s.rxFifo.length + (1 + ceil4 len) := by
  simp [outNotReady, rxRoom, or_assoc]

/-- The state after an IN token that a packet answers (rule R265). -/
def inAnswered (n : Ep) (s : State) : State :=
  { (s.setEp .inp n ⟨{ (s.ep .inp n).ctl with nak := true }, ⟨0, 0⟩, true⟩).setTxFifo n
      ((s.txFifo n).drop (ceil4 (s.ep .inp n).tsiz.xfrsiz.toNat)) with
    wire := s.wire ++ [.inData n (unpackBytes (s.ep .inp n).tsiz.xfrsiz.toNat
      ((s.txFifo n).take (ceil4 (s.ep .inp n).tsiz.xfrsiz.toNat)))] }

/-- What an IN token does, by the state of the endpoint. -/
theorem envIn_eq (n : Ep) (s : State) :
    envIn n s =
      if (s.ep .inp n).ctl.stall then record (.inStall n) s
      else if inNotReady s n then record (.inNak n) s
      else inAnswered n s := by
  cases n <;> rfl

/-- Settles O36, from the three answers to an IN token. -/
theorem envInResult : Obligations.EnvInResult := by
  refine fun s n => ⟨fun hst => ?_, fun hst h => ?_, fun hst hen hnak hpkt hlen => ?_⟩ <;>
    simp only [envStep, envIn_eq]
  · rw [if_pos hst]
    rfl
  · rw [if_neg (by simp [hst]), if_pos ((inNotReady_iff s n).mpr h)]
    rfl
  · have hready : ¬ inNotReady s n = true := by
      simp only [inNotReady_iff, hen, hnak, not_or, not_lt]
      exact ⟨nofun, nofun, hpkt, hlen⟩
    rw [if_neg (by simp [hst]), if_neg hready]
    rfl

/-- The state after an OUT packet that is taken (rule R266). -/
def outTaken (n : Ep) (bytes : List Byte) (x : AnyBits) (s : State) : State :=
  { s.setEp .out n ⟨{ (s.ep .out n).ctl with nak := true }, ⟨0, 0⟩, (s.ep .out n).xfrc⟩ with
    rxFifo := s.rxFifo ++
      rxStatusWord s.cfg.regmap (s.epNumber n) bytes.length s.cfg.pktstsOutRx x :: packLanes x.lanes bytes
    wire := s.wire ++ [.outAck n bytes] }

/-- What an OUT packet does, by the state of the endpoint and of the queue. -/
theorem envOut_eq (n : Ep) (bytes : List Byte) (x : AnyBits) (s : State) :
    envOut n bytes x s =
      if (s.ep .out n).ctl.stall then record (.outStall n) s
      else if outNotReady s n bytes.length then record (.outNak n) s
      else outTaken n bytes x s := by
  cases n <;> rfl

/-- Settles O37, from the three answers to an OUT packet. -/
theorem envOutResult : Obligations.EnvOutResult := by
  refine fun s n bytes x => ⟨fun hst => ?_, fun hst h => ?_, fun hst hen hnak hpkt hsize hroom => ?_⟩ <;>
    simp only [envStep, envOut_eq]
  · rw [if_pos hst]
    rfl
  · rw [if_neg (by simp [hst]), if_pos ((outNotReady_iff s n _).mpr h)]
    rfl
  · have hready : ¬ outNotReady s n bytes.length = true := by
      simp only [outNotReady_iff, hen, hnak, not_or, not_lt]
      exact ⟨nofun, nofun, hpkt, hsize, hroom⟩
    rw [if_neg (by simp [hst]), if_neg hready]
    rfl

/-- Settles O38, from the tests of rules R264 and R267 on either side. -/
theorem envOtherStepsResult : Obligations.EnvOtherStepsResult := by
  refine fun s x code epnum => ⟨rfl, rfl, fun ho hroom => ?_, fun h => ?_, fun h1 h2 h3 hroom => ?_, fun h => ?_⟩
  · simp [envStep, envSetupDone, rxRoom, ho, hroom, appendRx, rxStatusWord]
  · refine if_neg ?_
    simp only [rxRoom, Bool.and_eq_true, decide_eq_true_eq, not_and]
    obtain ho | hfull := h
    · simp [ho]
    · omega
  · simp [envStep, envOther, rxRoom, h1, h2, h3, hroom, appendRx, rxStatusWord]
  · refine if_neg ?_
    simp only [rxRoom, Bool.and_eq_true, bne_iff_ne, decide_eq_true_eq]
    rintro ⟨⟨⟨h1, h2⟩, h3⟩, hroom⟩
    obtain h | h | h | h := h
    · exact h1 h
    · exact h2 h
    · exact h3 h
    · omega

/-! ## The cases -/

/-- The state after a SETUP packet that is accepted (rule R263). -/
def setupAccepted (p : SetupPacket) (x : AnyBits) (s : State) : State :=
  { s with
    epIn0 := { s.epIn0 with ctl := { s.epIn0.ctl with nak := true, stall := false } }
    epOut0 := { s.epOut0 with ctl := { s.epOut0.ctl with nak := true, stall := false } }
    rxFifo := s.rxFifo ++ [rxStatusWord s.cfg.regmap 0 8 s.cfg.pktstsSetupRx x, p.word0, p.word1]
    setupDoneOwed := true
    wire := s.wire ++ [.setup p] }

/-- The state after a SETUP_DONE entry that is queued (rule R264). -/
def setupDoneQueued (x : AnyBits) (s : State) : State :=
  { s with
    rxFifo := s.rxFifo ++ [rxStatusWord s.cfg.regmap 0 0 s.cfg.pktstsSetupDone x]
    setupDoneOwed := false }

/-- The state after an entry of another code that is queued (rule R267). -/
def otherQueued (code epnum : BitVec 4) (x : AnyBits) (s : State) : State :=
  { s with rxFifo := s.rxFifo ++ [rxStatusWord s.cfg.regmap epnum 0 code x] }

/-- A property is one of every environment step if it holds after each of the things such a step can do. -/
theorem envStep_elim {P : State → Prop} (e : EnvStep) (s : State)
    (dropped : P s) (answered : ∀ w, P (record w s)) (busReset : P (envBusReset s)) (enumDone : P (envEnumDone s))
    (setup : ∀ p x, s.rxFifo.length + 3 ≤ s.cfg.rxFifoDepth.toNat → P (setupAccepted p x s))
    (setupDone : ∀ x, s.rxFifo.length + 1 ≤ s.cfg.rxFifoDepth.toNat → P (setupDoneQueued x s))
    (inData : ∀ n, (s.ep .inp n).ctl.stall = false → P (inAnswered n s))
    (outAck : ∀ n bytes x, (s.ep .out n).ctl.stall = false → bytes.length ≤ (s.ep .out n).tsiz.xfrsiz.toNat →
      s.rxFifo.length + (1 + ceil4 bytes.length) ≤ s.cfg.rxFifoDepth.toNat → P (outTaken n bytes x s))
    (other : ∀ code epnum x, code ≠ s.cfg.pktstsSetupRx → code ≠ s.cfg.pktstsSetupDone → code ≠ s.cfg.pktstsOutRx →
      s.rxFifo.length + 1 ≤ s.cfg.rxFifoDepth.toNat → P (otherQueued code epnum x s)) : P (envStep e s) := by
  cases e with
  | busReset => exact busReset
  | enumDone => exact enumDone
  | setup p x =>
    by_cases h : s.epOut0.ctl.enabled = true ∧ s.rxFifo.length + 3 ≤ s.cfg.rxFifoDepth.toNat
    · rw [(envSetupResult s p x).1 h.1 h.2]
      exact setup p x h.2
    · rw [(envSetupResult s p x).2 (by simpa [imp_iff_not_or] using h)]
      exact dropped
  | setupDone x =>
    obtain ⟨-, -, hdone, hdrop, -⟩ := envOtherStepsResult s x 0 0
    by_cases h : s.setupDoneOwed = true ∧ s.rxFifo.length + 1 ≤ s.cfg.rxFifoDepth.toNat
    · rw [hdone h.1 h.2]
      exact setupDone x h.2
    · rw [hdrop (by simpa [imp_iff_not_or] using h)]
      exact dropped
  | inToken n =>
    simp only [envStep, envIn_eq]
    split_ifs with hst hnr
    · exact answered _
    · exact answered _
    · exact inData n (Bool.eq_false_of_not_eq_true hst)
  | outPacket n bytes x =>
    simp only [envStep, envOut_eq]
    split_ifs with hst hnr
    · exact answered _
    · exact answered _
    · simp only [outNotReady_iff, not_or, not_lt] at hnr
      exact outAck n bytes x (Bool.eq_false_of_not_eq_true hst) hnr.2.2.2.1 hnr.2.2.2.2
  | other code epnum x =>
    simp only [envStep, envOther, rxRoom, Bool.and_eq_true, bne_iff_ne, decide_eq_true_eq]
    split_ifs with h
    · exact other code epnum x h.1.1.1 h.1.1.2 h.1.2 h.2
    · exact dropped

/-! ## What the environment never does -/

/-- What every environment step keeps (rule R268). -/
structure State.EnvKeeps (s t : State) : Prop where
  fixed : s.SameFixed t
  setup : t.setup = s.setup
  ctx : t.ctx = s.ctx
  cteState : t.cteState = s.cteState
  streamingEnabled : t.streamingEnabled = s.streamingEnabled
  devcfg : t.devcfg = s.devcfg
  faults : t.faults = s.faults
  ep : ∀ d n, (t.ep d n).ctl.mps = (s.ep d n).ctl.mps ∧ (t.ep d n).ctl.enabled = (s.ep d n).ctl.enabled ∧
      ((t.ep d n).ctl.stall = true → (s.ep d n).ctl.stall = true) ∧ ((s.ep d n).xfrc = true → (t.ep d n).xfrc = true)
  rxFifo : ∃ ws, t.rxFifo = s.rxFifo ++ ws
  txFifo : ∀ n, ∃ ws, s.txFifo n = ws ++ t.txFifo n
  usbrst : s.usbrst = true → t.usbrst = true
  enumdne : s.enumdne = true → t.enumdne = true

/-- Nothing the relation looks at is touched by the update, but for what is said otherwise. -/
theorem State.EnvKeeps.of_kept {s t : State} (fixed : s.SameFixed t := by exact .of_kept)
    (setup : t.setup = s.setup := by rfl) (ctx : t.ctx = s.ctx := by rfl) (cteState : t.cteState = s.cteState := by rfl)
    (streamingEnabled : t.streamingEnabled = s.streamingEnabled := by rfl) (devcfg : t.devcfg = s.devcfg := by rfl)
    (faults : t.faults = s.faults := by rfl)
    (ep : ∀ d n, (t.ep d n).ctl.mps = (s.ep d n).ctl.mps ∧ (t.ep d n).ctl.enabled = (s.ep d n).ctl.enabled ∧
      ((t.ep d n).ctl.stall = true → (s.ep d n).ctl.stall = true) ∧
      ((s.ep d n).xfrc = true → (t.ep d n).xfrc = true) := by exact fun _ _ => ⟨rfl, rfl, id, id⟩)
    (rxFifo : ∃ ws, t.rxFifo = s.rxFifo ++ ws := by exact ⟨[], (List.append_nil _).symm⟩)
    (txFifo : ∀ n, ∃ ws, s.txFifo n = ws ++ t.txFifo n := by exact fun _ => ⟨[], rfl⟩)
    (usbrst : s.usbrst = true → t.usbrst = true := by exact id)
    (enumdne : s.enumdne = true → t.enumdne = true := by exact id) : s.EnvKeeps t :=
  ⟨fixed, setup, ctx, cteState, streamingEnabled, devcfg, faults, ep, rxFifo, txFifo, usbrst, enumdne⟩

theorem record_envKeeps (w : WireEvent) (s : State) : s.EnvKeeps (record w s) :=
  .of_kept (ep := fun d n => by cases d <;> cases n <;> exact ⟨rfl, rfl, id, id⟩)
    (txFifo := fun n => by cases n <;> exact ⟨[], rfl⟩)

theorem setupAccepted_envKeeps (p : SetupPacket) (x : AnyBits) (s : State) : s.EnvKeeps (setupAccepted p x s) := by
  refine .of_kept (ep := fun d n => ?_) (rxFifo := ⟨_, rfl⟩) (txFifo := fun n => by cases n <;> exact ⟨[], rfl⟩)
  cases d <;> cases n
  case inp.ep0 | out.ep0 => exact ⟨rfl, rfl, nofun, id⟩
  case inp.stream | out.stream => exact ⟨rfl, rfl, id, id⟩

theorem inAnswered_envKeeps (n : Ep) (s : State) : s.EnvKeeps (inAnswered n s) := by
  cases n
  case ep0 =>
    refine .of_kept (ep := fun d m => ?_) (txFifo := fun m => ?_)
    · cases d <;> cases m
      case inp.ep0 => exact ⟨rfl, rfl, id, fun _ => rfl⟩
      case inp.stream | out.ep0 | out.stream => exact ⟨rfl, rfl, id, id⟩
    · cases m
      case ep0 => exact ⟨_, (List.take_append_drop ..).symm⟩
      case stream => exact ⟨[], rfl⟩
  case stream =>
    refine .of_kept (ep := fun d m => ?_) (txFifo := fun m => ?_)
    · cases d <;> cases m
      case inp.stream => exact ⟨rfl, rfl, id, fun _ => rfl⟩
      case inp.ep0 | out.ep0 | out.stream => exact ⟨rfl, rfl, id, id⟩
    · cases m
      case stream => exact ⟨_, (List.take_append_drop ..).symm⟩
      case ep0 => exact ⟨[], rfl⟩

theorem outTaken_envKeeps (n : Ep) (bytes : List Byte) (x : AnyBits) (s : State) :
    s.EnvKeeps (outTaken n bytes x s) := by
  cases n <;>
    exact .of_kept (ep := fun d m => by cases d <;> cases m <;> exact ⟨rfl, rfl, id, id⟩) (rxFifo := ⟨_, rfl⟩)
      (txFifo := fun m => by cases m <;> exact ⟨[], rfl⟩)

/-- An update of the flags or of the queue alone. -/
theorem queued_envKeeps {s : State} (u e o : Bool) (ws : List Word) (l : List WireEvent)
    (hu : s.usbrst = true → u = true) (he : s.enumdne = true → e = true) :
    s.EnvKeeps { s with usbrst := u, enumdne := e, rxFifo := s.rxFifo ++ ws, setupDoneOwed := o, wire := l } :=
  .of_kept (ep := fun d n => by cases d <;> cases n <;> exact ⟨rfl, rfl, id, id⟩) (rxFifo := ⟨_, rfl⟩)
    (txFifo := fun n => by cases n <;> exact ⟨[], rfl⟩) (usbrst := hu) (enumdne := he)

/-- No environment step does what rule R268 rules out. -/
theorem envStep_envKeeps (e : EnvStep) (s : State) : s.EnvKeeps (envStep e s) := by
  refine envStep_elim e s (dropped := .of_kept) (answered := (record_envKeeps · s)) (busReset := ?busReset)
    (enumDone := ?enumDone) (setup := fun p x _ => setupAccepted_envKeeps p x s) (setupDone := fun x _ => ?setupDone)
    (inData := fun n _ => inAnswered_envKeeps n s) (outAck := fun n bytes x _ _ _ => outTaken_envKeeps n bytes x s)
    (other := fun code epnum x _ _ _ _ => ?other)
  case busReset =>
    have h := queued_envKeeps (s := s) true s.enumdne s.setupDoneOwed [] (s.wire ++ [.reset]) (fun _ => rfl) id
    rwa [List.append_nil] at h
  case enumDone =>
    have h := queued_envKeeps (s := s) s.usbrst true s.setupDoneOwed [] s.wire id fun _ => rfl
    rwa [List.append_nil] at h
  case setupDone => exact queued_envKeeps s.usbrst s.enumdne false _ s.wire id id
  case other => exact queued_envKeeps s.usbrst s.enumdne s.setupDoneOwed _ s.wire id id

/-- Settles O39, from what every environment step keeps. -/
theorem environmentNeverDoes : Obligations.EnvironmentNeverDoes := by
  intro e s
  obtain ⟨h1, h2, h3, h4, h5, h6, h7, h8, h9, h10, h11, h12⟩ := envStep_envKeeps e s
  exact ⟨h1, h2, h3, h4, h5, h6, h7, h8, h9, h10, h11, h12⟩

end Sys2Proof.Machine
end

section
/-! The whole step: what a service step is made of, when the next step is one, and the rules about every step that follow
from what each event and each environment step leaves. -/

namespace Sys2Proof.Machine

/-! ## The step -/

/-- Settles O10: each clause is the definition of a step or of a list of events, read at its case. -/
theorem stepRunsTheDecodedEvents : Obligations.StepRunsTheDecodedEvents := by
  refine fun s => ⟨fun rest hs hi => ?_, fun rest hs hi => ?_, fun rest hs hi => ?_, fun rest hs hi => ?_,
    fun e rest hs => ?_, fun hs hi => ?_, fun hs hi => ?_, rfl, fun i is t h => ?_, fun i is f h => ?_⟩
  · have hstep : step s = service { s with schedule := rest } := by simp only [step, hs, hi, if_true]
    exact hstep
  · simp [step, hs, hi]
  · have hstep : step s = service s := by simp only [step, hs, hi, if_true]
    exact hstep
  · simp [step, hs, hi]
  · simp only [step, hs]
  · have hstep : step s = service s := by simp only [step, hs, hi, if_true]
    exact hstep
  · simp [step, hs, hi]
  · rw [runEvents_cons, h, andThen_next]
  · rw [runEvents_cons, h, andThen_fault]

/-- A step that answers a next state is an environment step, a service step, or a move that is dropped; which one is read
from the schedule and the line. -/
theorem step_next {s t : State} (h : step s = .next t) :
    (∃ e rest, s.schedule = .env e :: rest ∧ t = envStep e { s with schedule := rest }) ∨
    (∃ rest, s.serves = true ∧ service { s with schedule := rest } = .next t) ∨
    (∃ rest, t = { s with schedule := rest }) := by
  obtain he | ⟨rest, hi, hsv⟩ | hd := step_cases h
  · exact .inl he
  · cases hs : s.schedule with
    | nil => exact .inr (.inl ⟨rest, by simp [State.serves, hs, hi], hsv⟩)
    | cons m ms =>
      cases m with
      | env e =>
        simp only [step, hs] at h
        cases h
        exact .inl ⟨e, ms, rfl, rfl⟩
      | service | serviceAll => exact .inr (.inl ⟨rest, by simp [State.serves, hs, hi], hsv⟩)
  · exact .inr (.inr hd)

/-! ## A service step, event by event -/

/-- An event that is in the list if its bit is set. -/
theorem runEvents_optional {b : Bool} {i : Instr} {s t : State}
    (h : runEvents (if b then [i] else []) s = .next t) :
    (b = true ∧ exec i s = .next t) ∨ (b = false ∧ t = s) := by
  cases b with
  | false =>
    cases h
    exact .inr ⟨rfl, rfl⟩
  | true =>
    obtain ⟨u, hu, hr⟩ := andThen_eq_next.mp h
    cases hr
    exact .inl ⟨rfl, hu⟩

/-- A service step that completes: a bus reset if there is one, a receive entry if there is one, and then what neither
touches the queue nor answers a request. -/
theorem service_next {s t : State} (h : service s = .next t) :
    ∃ u v,
      (Instr.usbrst ∈ gintstsEvents s.cfg.regmap s.gintsts ∧ exec .usbrst (enterService s) = .next u ∨
        u = enterService s) ∧
      (Instr.rxflvl ∈ gintstsEvents s.cfg.regmap s.gintsts ∧ exec .rxflvl u = .next v ∨ v = u) ∧
      Continued v t := by
  unfold service gintstsEvents at h
  rw [runEvents_append, runEvents_append, runEvents_append] at h
  obtain ⟨w, hw, ht⟩ := andThen_eq_next.mp h
  obtain ⟨v, hv, hw⟩ := andThen_eq_next.mp hw
  obtain ⟨u, hu, hv⟩ := andThen_eq_next.mp hv
  refine ⟨u, v, ?_, ?_, .trans (t := w) ?_ ?_⟩
  · rw [mem_gintstsEvents_usbrst]
    exact (runEvents_optional hu).imp_right And.right
  · rw [mem_gintstsEvents_rxflvl]
    exact (runEvents_optional hv).imp_right And.right
  · obtain ⟨-, h⟩ | ⟨-, rfl⟩ := runEvents_optional hw
    · exact exec_enumdne_continued h
    · exact .refl _
  · obtain ⟨-, h⟩ | ⟨-, rfl⟩ := runEvents_optional ht
    · exact exec_iepint_continued h
    · exact .refl _

theorem enterService_continued (s : State) : Continued s (enterService s) := ⟨.of_kept, rfl, rfl, rfl, rfl, rfl⟩

/-- Every service step keeps what every event keeps. -/
theorem service_keeps {s t : State} (h : service s = .next t) : s.Keeps t := by
  obtain ⟨u, v, hu, hv, ht⟩ := service_next h
  have hsu : s.Keeps u := by
    obtain ⟨-, hu⟩ | rfl := hu
    · exact (enterService_continued s).keeps.trans (exec_usbrst_busReset hu).keeps
    · exact (enterService_continued s).keeps
  have huv : u.Keeps v := by
    obtain ⟨-, hv⟩ | rfl := hv
    · obtain ⟨_, _, _, _, hrec⟩ := exec_rxflvl_received hv
      exact hrec.keeps
    · exact .refl _
  exact hsu.trans (huv.trans ht.keeps)

/-! ## The fixed registers and the packet size of endpoint 0 -/

theorem envStep_ep0Sized (e : EnvStep) {s : State} (h : s.ep0Sized) : (envStep e s).ep0Sized :=
  have hep := (envStep_envKeeps e s).ep
  ⟨(hep .inp .ep0).1.trans h.1, (hep .out .ep0).1.trans h.2⟩

/-- Settles O48: each kind of step keeps the fixed fields. -/
theorem noStepChangesTheFixedRegisters : Obligations.NoStepChangesTheFixedRegisters := by
  intro s t h
  obtain ⟨e, rest, -, rfl⟩ | ⟨rest, -, hsv⟩ | ⟨rest, rfl⟩ := step_next h
  · exact State.SameFixed.trans .of_kept (envStep_envKeeps e _).fixed
  · exact State.SameFixed.trans .of_kept (service_keeps hsv).fixed
  · exact .of_kept

/-- Settles O47: a bus reset gives the size, and each kind of step keeps it. -/
theorem endpoint0KeepsItsPacketSize : Obligations.Endpoint0KeepsItsPacketSize := by
  refine ⟨fun s t h => (exec_usbrst_busReset h).sized, fun s t hsz h => ?_⟩
  obtain ⟨e, rest, -, rfl⟩ | ⟨rest, -, hsv⟩ | ⟨rest, rfl⟩ := step_next h
  · exact envStep_ep0Sized e hsz
  · exact (service_keeps hsv).ep0Sized hsz
  · exact hsz

/-! ## The address -/

/-- Settles O50: of the events of a service step only a bus reset and a SET_ADDRESS entry write the address, and no
environment step does. -/
theorem addressChangesOnlyByResetOrSetAddress : Obligations.AddressChangesOnlyByResetOrSetAddress := by
  intro s t h hne
  obtain ⟨e, rest, -, rfl⟩ | ⟨rest, hserves, hsv⟩ | ⟨rest, rfl⟩ := step_next h
  · exact absurd (congrArg DevCfg.addr (envStep_envKeeps e _).devcfg) hne
  · obtain ⟨u, v, hu, hv, ht⟩ := service_next hsv
    have hu : s.handles .usbrst ∧ u.devcfg.addr = 0 ∨ u.devcfg.addr = s.devcfg.addr :=
      hu.imp (fun ⟨hmem, hu⟩ => ⟨⟨hserves, hmem⟩, (exec_usbrst_busReset hu).addr⟩) (fun hu => by rw [hu]; rfl)
    rw [ht.addr] at hne ⊢
    obtain ⟨hmem, hv⟩ | rfl := hv
    · obtain ⟨_, _, _, _, hrec⟩ := exec_rxflvl_received hv
      obtain haddr | hset := hrec.addr
      · rw [haddr] at hne ⊢
        exact .inl (hu.resolve_right hne)
      · rw [ht.keeps.fixed.cfg, ht.setup]
        exact .inr ⟨⟨hserves, hmem⟩, hset⟩
    · exact .inl (hu.resolve_right hne)
  · exact absurd rfl hne

/-! ## Stalls -/

/-- What the decoder answers for a packet belongs to the packet (30_encoding.md rule R108). -/
theorem decodeSetup_wf (c : Config) (p : SetupPacket) : (decodeSetup c p).wf c = true := by
  unfold decodeSetup
  split_ifs <;>
    simp only [Instr.wf, SetupPacket.asksDescriptor, SetupPacket.asksInterface, SetupPacket.asksAlternate,
      SetupPacket.listed] <;>
    grind

theorem listed_of_decodeSetup_unsupported {c : Config} {p : SetupPacket}
    (h : decodeSetup c p = .unsupportedRequest p) : p.listed c = false := by
  have hwf := decodeSetup_wf c p
  rw [h] at hwf
  simpa [Instr.wf] using hwf

theorem descriptorType_of_decodeSetup_other {c : Config} {p : SetupPacket}
    (h : decodeSetup c p = .getDescriptorOther p) :
    p.request = 0x06 ∧ p.descriptorType ≠ 0x01 ∧ p.descriptorType ≠ 0x02 := by
  have hwf := decodeSetup_wf c p
  rw [h] at hwf
  simp only [Instr.wf, Bool.and_eq_true, beq_iff_eq, bne_iff_ne] at hwf
  exact ⟨hwf.1.1.2, hwf.1.2, hwf.2⟩

/-- A service step in which a receive entry raises a stall, where none does so it stands or a bus reset has ended it. -/
theorem service_stalls {s t : State} (h : service s = .next t) :
    (t.epIn0.ctl.stall = true → s.epIn0.ctl.stall = false → Instr.rxflvl ∈ gintstsEvents s.cfg.regmap s.gintsts ∧
      (decodeSetup t.cfg t.setup = .getDescriptorOther t.setup ∨
        decodeSetup t.cfg t.setup = .unsupportedRequest t.setup)) ∧
    (t.epOut0.ctl.stall = true → s.epOut0.ctl.stall = false → Instr.rxflvl ∈ gintstsEvents s.cfg.regmap s.gintsts ∧
      decodeSetup t.cfg t.setup = .unsupportedRequest t.setup) := by
  obtain ⟨u, v, hu, hv, ht⟩ := service_next h
  have hin : s.epIn0.ctl.stall = false → u.epIn0.ctl.stall = false := by
    obtain ⟨-, hu⟩ | rfl := hu
    · exact fun _ => (exec_usbrst_busReset hu).stallIn
    · exact id
  have hout : s.epOut0.ctl.stall = false → u.epOut0.ctl.stall = false := by
    obtain ⟨-, hu⟩ | rfl := hu
    · exact fun _ => (exec_usbrst_busReset hu).stallOut
    · exact id
  rw [ht.stallIn, ht.stallOut, ht.keeps.fixed.cfg, ht.setup]
  obtain ⟨hmem, hv⟩ | rfl := hv
  · obtain ⟨_, _, _, _, hrec⟩ := exec_rxflvl_received hv
    refine ⟨fun hup hlow => ⟨hmem, ?_⟩, fun hup hlow => ⟨hmem, ?_⟩⟩
    · obtain hsame | hraised := hrec.stallIn
      · simp [← hsame, hup] at hin
        simp [hin] at hlow
      · exact hraised.2
    · obtain hsame | hraised := hrec.stallOut
      · simp [← hsame, hup] at hout
        simp [hout] at hlow
      · exact hraised.2
  · refine ⟨fun hup hlow => ?_, fun hup hlow => ?_⟩
    · simp [hin hlow] at hup
    · simp [hout hlow] at hup

/-- Settles O54: of a service step's events only a receive entry raises a stall, of a request the decoder does not serve, and
no environment step does. -/
theorem stallRaisedOnlyByUnservedRequests : Obligations.StallRaisedOnlyByUnservedRequests := by
  intro s t h
  obtain ⟨e, rest, -, rfl⟩ | ⟨rest, hserves, hsv⟩ | ⟨rest, rfl⟩ := step_next h
  · have hep := fun d n => ((envStep_envKeeps e { s with schedule := rest }).ep d n).2.2.1
    refine ⟨fun hup hlow => ?_, fun hup hlow => ?_, hep .inp .stream, hep .out .stream⟩
    · exact absurd (hep .out .ep0 hup) (by simp [hlow])
    · exact absurd (hep .inp .ep0 hup) (by simp [hlow])
  · have hkeeps := service_keeps hsv
    obtain ⟨hin, hout⟩ := service_stalls hsv
    refine ⟨fun hup hlow => ?_, fun hup hlow => ?_, hkeeps.stallInS, hkeeps.stallOutS⟩
    · obtain ⟨hmem, hdec⟩ := hout hup hlow
      exact ⟨⟨hserves, hmem⟩, listed_of_decodeSetup_unsupported hdec⟩
    · obtain ⟨hmem, hdec⟩ := hin hup hlow
      exact ⟨⟨hserves, hmem⟩, hdec.symm.imp listed_of_decodeSetup_unsupported descriptorType_of_decodeSetup_other⟩
  · refine ⟨fun hup hlow => ?_, fun hup hlow => ?_, id, id⟩
    · exact absurd hup (by simp [hlow])
    · exact absurd hup (by simp [hlow])

/-- A service step that ends a stall of endpoint 0 handles a bus reset. -/
theorem service_ends_stall {s t : State} (h : service s = .next t)
    (hend : (s.epIn0.ctl.stall = true ∧ t.epIn0.ctl.stall = false) ∨
      (s.epOut0.ctl.stall = true ∧ t.epOut0.ctl.stall = false)) :
    Instr.usbrst ∈ gintstsEvents s.cfg.regmap s.gintsts := by
  obtain ⟨u, v, ⟨hmem, -⟩ | rfl, hv, ht⟩ := service_next h
  · exact hmem
  · exfalso
    have hup : (s.epIn0.ctl.stall = true → v.epIn0.ctl.stall = true) ∧
        (s.epOut0.ctl.stall = true → v.epOut0.ctl.stall = true) := by
      obtain ⟨-, hv⟩ | rfl := hv
      · obtain ⟨_, _, _, _, hrec⟩ := exec_rxflvl_received hv
        exact ⟨fun hs => hrec.stallIn.elim (·.trans hs) And.left,
          fun hs => hrec.stallOut.elim (·.trans hs) And.left⟩
      · exact ⟨id, id⟩
    rw [ht.stallIn, ht.stallOut] at hend
    obtain ⟨hs, hv⟩ | ⟨hs, hv⟩ := hend
    · simp [hup.1 hs] at hv
    · simp [hup.2 hs] at hv

/-- An environment step that ends a stall of endpoint 0 accepts a SETUP packet. -/
theorem envStep_ends_stall (e : EnvStep) (s : State) :
    (s.epIn0.ctl.stall = true ∧ (envStep e s).epIn0.ctl.stall = false) ∨
      (s.epOut0.ctl.stall = true ∧ (envStep e s).epOut0.ctl.stall = false) →
    ∃ p, (envStep e s).wire = s.wire ++ [.setup p] := by
  have hsame : ∀ {a b c d : Bool}, a = c → b = d → ¬((a = true ∧ c = false) ∨ (b = true ∧ d = false)) := by
    rintro a b _ _ rfl rfl
    simp
  refine envStep_elim (P := fun t => (s.epIn0.ctl.stall = true ∧ t.epIn0.ctl.stall = false) ∨
      (s.epOut0.ctl.stall = true ∧ t.epOut0.ctl.stall = false) → ∃ p, t.wire = s.wire ++ [.setup p]) e s
    (dropped := fun h => absurd h (hsame rfl rfl)) (answered := fun w h => absurd h (hsame rfl rfl))
    (busReset := fun h => absurd h (hsame rfl rfl)) (enumDone := fun h => absurd h (hsame rfl rfl))
    (setup := fun p x _ _ => ⟨p, rfl⟩) (setupDone := fun x _ h => absurd h (hsame rfl rfl))
    (inData := fun n _ h => ?_) (outAck := fun n bytes x _ _ _ h => ?_)
    (other := fun code epnum x _ _ _ _ h => absurd h (hsame rfl rfl))
  · cases n <;> exact absurd h (hsame rfl rfl)
  · cases n <;> exact absurd h (hsame rfl rfl)

/-- Settles O55: of a service step's events only a bus reset ends a stall, of the environment's steps only an accepted SETUP
packet. -/
theorem stallEndsOnlyBySetupOrReset : Obligations.StallEndsOnlyBySetupOrReset := by
  intro s t h hend
  obtain ⟨e, rest, -, rfl⟩ | ⟨rest, hserves, hsv⟩ | ⟨rest, rfl⟩ := step_next h
  · exact .inl (envStep_ends_stall e _ hend)
  · have hmem := service_ends_stall hsv hend
    exact .inr ⟨hserves, hmem⟩
  · simp at hend

end Sys2Proof.Machine
end

section
/-! Fields in words once more (10_state.md rule R34, 30_encoding.md rules R101, R103): the bits of a field in every layout, the
bits a mask covers, and what a layout that keeps its fields apart says of each register. -/

namespace Sys2Proof

/-! ## Words and bytes -/

/-- The halves of a word make it up. -/
theorem halves_append (w : Word) : w.extractLsb' 16 16 ++ w.extractLsb' 0 16 = w :=
  (BitVec.extractLsb'_append_extractLsb'_eq_extractLsb' (x := w) (start₁ := 0) (len₁ := 16) rfl).trans
    BitVec.extractLsb'_eq_self

/-- So do the upper half and the two bytes below it. -/
theorem half_bytes_append (w : Word) : w.extractLsb' 16 16 ++ w.extractLsb' 8 8 ++ w.extractLsb' 0 8 = w := by
  have h : w.extractLsb' 16 16 ++ w.extractLsb' 8 8 = w.extractLsb' 8 24 :=
    BitVec.extractLsb'_append_extractLsb'_eq_extractLsb' (x := w) (start₁ := 8) (len₁ := 8) rfl
  rw [h]
  exact (BitVec.extractLsb'_append_extractLsb'_eq_extractLsb' (x := w) (start₁ := 0) (len₁ := 8) rfl).trans
    BitVec.extractLsb'_eq_self

/-- A word is put together from its bytes. -/
theorem leWord_wordBytes (w : Word) :
    leWord (w.extractLsb' 0 8) (w.extractLsb' 8 8) (w.extractLsb' 16 8) (w.extractLsb' 24 8) = w := by
  have h : w.extractLsb' 24 8 ++ w.extractLsb' 16 8 = w.extractLsb' 16 16 := Machine.extract_bytes_append w 16
  rw [leWord, h, half_bytes_append]

/-- The two data words of a packet are those it is read from. -/
theorem word0_ofWords (w0 w1 : Word) : (SetupPacket.ofWords w0 w1).word0 = w0 := half_bytes_append w0
theorem word1_ofWords (w0 w1 : Word) : (SetupPacket.ofWords w0 w1).word1 = w1 := halves_append w1

/-- The bytes of a word, each at its place. -/
theorem extract_leWord (a b c d : Byte) :
    (leWord a b c d).extractLsb' 0 8 = a ∧ (leWord a b c d).extractLsb' 8 8 = b ∧
      (leWord a b c d).extractLsb' 16 8 = c ∧ (leWord a b c d).extractLsb' 24 8 = d := by
  simpa [wordBytes] using Machine.wordBytes_leWord a b c d

/-- The half words of a word are made of its bytes. -/
theorem extract_leWord_half (a b c d : Byte) :
    (leWord a b c d).extractLsb' 0 16 = b ++ a ∧ (leWord a b c d).extractLsb' 16 16 = d ++ c := by
  obtain ⟨ha, hb, hc, hd⟩ := extract_leWord a b c d
  have h0 := Machine.extract_bytes_append (leWord a b c d) 0
  have h16 := Machine.extract_bytes_append (leWord a b c d) 16
  rw [Nat.zero_add, ha, hb] at h0
  rw [hc, hd] at h16
  exact ⟨h0.symm, h16.symm⟩

theorem toNat_append_bytes (hi lo : Byte) : (hi ++ lo).toNat = lo.toNat + 256 * hi.toNat := by
  have := lo.isLt
  rw [BitVec.toNat_append, ← Nat.shiftLeft_add_eq_or_of_lt this, Nat.shiftLeft_eq]
  omega

/-- Settles O7: each field is made of the bytes at its place. -/
theorem setupFieldsAreLittleEndian : Obligations.SetupFieldsAreLittleEndian := by
  intro b0 b1 b2 b3 b4 b5 b6 b7
  obtain ⟨h0, h1, -, -⟩ := extract_leWord b0 b1 b2 b3
  obtain ⟨-, hv⟩ := extract_leWord_half b0 b1 b2 b3
  obtain ⟨hi, hl⟩ := extract_leWord_half b4 b5 b6 b7
  refine ⟨h0, h1, ?_, ?_, ?_, word0_ofWords .., word1_ofWords ..⟩
  · rw [← toNat_append_bytes, ← hv]
    rfl
  · rw [← toNat_append_bytes, ← hi]
    rfl
  · rw [← toNat_append_bytes, ← hl]
    rfl

/-! ## Bits of a field, in every layout -/

/-- A bit of a one-bit word, wherever the layout has it. -/
theorem bitAt_getLsbD_all (i j : Nat) (b : Bool) :
    (bitAt i b).getLsbD j = (b && decide (j < 32) && decide (i = j)) := by
  by_cases hi : i < 32
  · rw [bitAt_getLsbD i j b hi]
    by_cases hij : i = j
    · simp [← hij, hi]
    · simp [hij]
  · have hzero : bitAt i b = 0#32 := by
      have : (2 ^ i) % 2 ^ 32 = 0 := Nat.mod_eq_zero_of_dvd (Nat.pow_dvd_pow 2 (Nat.le_of_not_lt hi))
      cases b
      · rfl
      · exact BitVec.eq_of_toNat_eq (by simpa [bitAt] using this)
    have hij : ¬(j < 32 ∧ i = j) := by omega
    simp only [hzero, BitVec.getLsbD_zero]
    cases b
    · rfl
    · simpa using hij

/-- A field put back where it was read shows the bits the word has there. -/
theorem fieldAt_extract (lo n : Nat) (w : Word) :
    fieldAt lo (w.extractLsb' lo n) = w &&& fieldAt lo (BitVec.allOnes n) := by
  refine BitVec.eq_of_getLsbD_eq fun j hj => ?_
  simp only [BitVec.getLsbD_and, fieldAt_getLsbD, BitVec.getLsbD_extractLsb', BitVec.getLsbD_allOnes, hj,
    decide_true, Bool.true_and]
  by_cases hlo : j < lo
  · simp [hlo]
  · have hadd : lo + (j - lo) = j := by omega
    simp [hlo, hadd, Bool.and_comm, -BitVec.getLsbD_eq_getElem]

/-- A field has no bit outside the mask of its place. -/
theorem fieldAt_and_not_ones {n : Nat} (lo : Nat) (v : BitVec n) (m : Word)
    (hm : fieldAt lo (BitVec.allOnes n) &&& m = fieldAt lo (BitVec.allOnes n)) : fieldAt lo v &&& ~~~m = 0#32 := by
  refine BitVec.eq_of_getLsbD_eq fun j hj => ?_
  have hbit := congrArg (·.getLsbD j) hm
  simp only [BitVec.getLsbD_and, fieldAt_getLsbD, BitVec.getLsbD_allOnes, hj, decide_true, Bool.true_and] at hbit
  simp only [BitVec.getLsbD_and, fieldAt_getLsbD, BitVec.getLsbD_not, hj, decide_true, Bool.true_and,
    BitVec.getLsbD_zero]
  by_cases hv : v.getLsbD (j - lo) = true
  · simp_all [BitVec.lt_of_getLsbD hv, -BitVec.getLsbD_eq_getElem]
  · simp [hv]

/-- A field shows nothing outside its bits. -/
theorem fieldAt_getLsbD_apart {n : Nat} (lo j : Nat) (v : BitVec n) (h : j < lo ∨ lo + n ≤ j) :
    (fieldAt lo v).getLsbD j = false := by
  rw [fieldAt_getLsbD]
  obtain h | h := h
  · simp [h]
  · rw [BitVec.getLsbD_of_ge v _ (by omega), Bool.and_false]

/-- A bit shows at its own place, and nowhere else. -/
theorem bitAt_getLsbD_same {i : Nat} (b : Bool) (h : i < 32) : (bitAt i b).getLsbD i = b := by
  simp [bitAt_getLsbD_all, h, -BitVec.getLsbD_eq_getElem]
theorem bitAt_getLsbD_other {i j : Nat} (b : Bool) (h : i ≠ j) : (bitAt i b).getLsbD j = false := by
  simp [bitAt_getLsbD_all, h, -BitVec.getLsbD_eq_getElem]

/-- A bit shows nothing in a field it stands outside of. -/
theorem extract_bitAt_apart (i lo k : Nat) (b : Bool) (h : i < lo ∨ lo + k ≤ i) :
    (bitAt i b).extractLsb' lo k = 0#k := by
  refine BitVec.eq_of_getLsbD_eq fun j hj => ?_
  have hij : ¬ i = lo + j := by omega
  simp [bitAt_getLsbD_all, hj, hij, -BitVec.getLsbD_eq_getElem]

/-! ## The places of a layout -/

/-- Fields apart, the first from the others and the others among themselves. -/
theorem fieldsApart_cons (f : Nat × Nat) (rest : List (Nat × Nat)) :
    fieldsApart (f :: rest) = true ↔
      f.1 + f.2 ≤ 32 ∧ (∀ g ∈ rest, f.1 + f.2 ≤ g.1 ∨ g.1 + g.2 ≤ f.1) ∧ fieldsApart rest = true := by
  simp [fieldsApart, and_assoc]

/-- A layout that keeps its fields apart, register by register. -/
theorem RegMap.wf_iff (m : RegMap) : m.wf = true ↔
    fieldsApart [(m.rxflvl, 1), (m.usbrst, 1), (m.enumdne, 1), (m.iepint, 1)] = true ∧
    fieldsApart [(m.epnum, 4), (m.bcnt, 11), (m.dpid, 2), (m.pktsts, 4), (m.frmnum, 4)] = true ∧
    fieldsApart [(m.rxDepth, 16)] = true ∧ fieldsApart [(m.txStart, 16), (m.txDepth, 16)] = true ∧
    fieldsApart [(m.speed, 2), (m.addr, 7)] = true ∧ fieldsApart [(m.xfrcMask, 1)] = true ∧
    fieldsApart [(m.mps, 11), (m.nak, 1), (m.stall, 1), (m.cnak, 1), (m.enabled, 1)] = true ∧
    fieldsApart [(m.xfrsiz, 19), (m.pktcnt, 10)] = true ∧ fieldsApart [(m.xfrc, 1)] = true := by
  simp only [RegMap.wf, Bool.and_eq_true, and_assoc]

/-! ## Register writes on the port -/

/-! Each register's fields read back from its word. -/

open Machine in
theorem gintMask_readBack {m : RegMap} (h : m.wf = true) (k : GintMask) :
    (⟨(k.toWord m).getLsbD m.rxflvl, (k.toWord m).getLsbD m.usbrst, (k.toWord m).getLsbD m.enumdne,
      (k.toWord m).getLsbD m.iepint⟩ : GintMask) = k := by
  obtain ⟨hw, -⟩ := m.wf_iff.mp h
  simp only [fieldsApart_cons, List.forall_mem_cons, List.not_mem_nil, false_imp_iff, implies_true, and_true] at hw
  simp (disch := omega) only [GintMask.toWord, BitVec.getLsbD_or, bitAt_getLsbD_same, bitAt_getLsbD_other,
    Bool.or_false, Bool.false_or]

open Machine in
theorem txFSiz_readBack {m : RegMap} (h : m.wf = true) (v : TxFSiz) :
    (⟨(v.toWord m).extractLsb' m.txStart 16, (v.toWord m).extractLsb' m.txDepth 16⟩ : TxFSiz) = v := by
  obtain ⟨-, -, -, hw, -⟩ := m.wf_iff.mp h
  simp only [fieldsApart_cons, List.forall_mem_cons, List.not_mem_nil, false_imp_iff, implies_true, and_true] at hw
  simp (disch := omega) only [TxFSiz.toWord, extract_or, extract_fieldAt, extract_fieldAt_apart, BitVec.or_zero,
    BitVec.zero_or]

open Machine in
theorem devCfg_readBack {m : RegMap} (h : m.wf = true) (v : DevCfg) :
    (⟨(v.toWord m).extractLsb' m.speed 2, (v.toWord m).extractLsb' m.addr 7⟩ : DevCfg) = v := by
  obtain ⟨-, -, -, -, hw, -⟩ := m.wf_iff.mp h
  simp only [fieldsApart_cons, List.forall_mem_cons, List.not_mem_nil, false_imp_iff, implies_true, and_true] at hw
  simp (disch := omega) only [DevCfg.toWord, extract_or, extract_fieldAt, extract_fieldAt_apart, BitVec.or_zero,
    BitVec.zero_or]

open Machine in
theorem epCtlWrite_readBack {m : RegMap} (h : m.wf = true) (v : EpCtlWrite) :
    (⟨(v.toWord m).extractLsb' m.mps 11, (v.toWord m).getLsbD m.nak, (v.toWord m).getLsbD m.stall,
      (v.toWord m).getLsbD m.cnak, (v.toWord m).getLsbD m.enabled⟩ : EpCtlWrite) = v := by
  obtain ⟨-, -, -, -, -, -, hw, -⟩ := m.wf_iff.mp h
  simp only [fieldsApart_cons, List.forall_mem_cons, List.not_mem_nil, false_imp_iff, implies_true, and_true] at hw
  simp (disch := omega) only [EpCtlWrite.toWord, extract_or, extract_fieldAt, extract_bitAt_apart, BitVec.getLsbD_or,
    fieldAt_getLsbD_apart, bitAt_getLsbD_same, bitAt_getLsbD_other, BitVec.or_zero, Bool.or_false, Bool.false_or]

open Machine in
theorem epTsiz_readBack {m : RegMap} (h : m.wf = true) (v : EpTsiz) :
    (⟨(v.toWord m).extractLsb' m.pktcnt 10, (v.toWord m).extractLsb' m.xfrsiz 19⟩ : EpTsiz) = v := by
  obtain ⟨-, -, -, -, -, -, -, hw, -⟩ := m.wf_iff.mp h
  simp only [fieldsApart_cons, List.forall_mem_cons, List.not_mem_nil, false_imp_iff, implies_true, and_true] at hw
  simp (disch := omega) only [EpTsiz.toWord, extract_or, extract_fieldAt, extract_fieldAt_apart, BitVec.or_zero,
    BitVec.zero_or]

open Machine in
/-- Settles O9, register by register. -/
theorem portWordCarriesTheFields : Obligations.PortWordCarriesTheFields := by
  intro m w h
  obtain ⟨-, -, hrx, -, -, hmask, -, -, hxfrc⟩ := m.wf_iff.mp h
  simp only [fieldsApart_cons] at hrx hmask hxfrc
  cases w with
  | gintsts u e =>
    obtain ⟨-, hu, he, -, -, -, -, hue, -⟩ := RegMap.gint_apart h
    simp [RegWrite.ofWord, RegWrite.name, RegWrite.toWord, bitAt_getLsbD_same _ hu, bitAt_getLsbD_same _ he,
      bitAt_getLsbD_other _ hue, bitAt_getLsbD_other _ (Ne.symm hue), -BitVec.getLsbD_eq_getElem]
  | gintmsk k => exact congrArg _ (gintMask_readBack h k)
  | rxfsiz d => exact congrArg _ (extract_fieldAt _ d hrx.1)
  | txfsiz n v => exact congrArg _ (txFSiz_readBack h v)
  | devcfg v => exact congrArg _ (devCfg_readBack h v)
  | depmsk b => exact congrArg _ (bitAt_getLsbD_same b hmask.1)
  | epctl d n v => exact congrArg _ (epCtlWrite_readBack h v)
  | eptsiz d n v => exact congrArg _ (epTsiz_readBack h v)
  | epint d n x => exact congrArg _ (bitAt_getLsbD_same x hxfrc.1)

/-! ## Status words -/

/-- A mask that covers a field covers it with more bits added, on either side. -/
theorem and_or_of_covers_left {f m : Word} (b : Word) (h : f &&& m = f) : f &&& (m ||| b) = f := by
  rw [BitVec.and_or_distrib_left, h]
  refine BitVec.eq_of_getLsbD_eq fun j _ => ?_
  simp only [BitVec.getLsbD_or, BitVec.getLsbD_and]
  cases f.getLsbD j <;> rfl
theorem and_or_of_covers_right {f m : Word} (b : Word) (h : f &&& m = f) : f &&& (b ||| m) = f := by
  rw [BitVec.or_comm, and_or_of_covers_left b h]

/-- The mask of a status word covers each of its fields. -/
theorem RegMap.rxstsMask_covers (m : RegMap) :
    fieldAt m.epnum (BitVec.allOnes 4) &&& m.rxstsMask = fieldAt m.epnum (BitVec.allOnes 4) ∧
    fieldAt m.bcnt (BitVec.allOnes 11) &&& m.rxstsMask = fieldAt m.bcnt (BitVec.allOnes 11) ∧
    fieldAt m.dpid (BitVec.allOnes 2) &&& m.rxstsMask = fieldAt m.dpid (BitVec.allOnes 2) ∧
    fieldAt m.pktsts (BitVec.allOnes 4) &&& m.rxstsMask = fieldAt m.pktsts (BitVec.allOnes 4) ∧
    fieldAt m.frmnum (BitVec.allOnes 4) &&& m.rxstsMask = fieldAt m.frmnum (BitVec.allOnes 4) := by
  have left := fun {f m} b => and_or_of_covers_left (f := f) (m := m) b
  have right := fun {f m} b => and_or_of_covers_right (f := f) (m := m) b
  exact ⟨left _ (left _ (left _ (left _ BitVec.and_self))), left _ (left _ (left _ (right _ BitVec.and_self))),
    left _ (left _ (right _ BitVec.and_self)), left _ (right _ BitVec.and_self), right _ BitVec.and_self⟩

/-- In every layout a status word is put together again from what is read from it. -/
theorem RxStatus.toWord_ofWord (m : RegMap) (w : Word) : (RxStatus.ofWord m w).toWord m = w := by
  have hreserved : w &&& ~~~m.rxstsMask &&& ~~~m.rxstsMask = w &&& ~~~m.rxstsMask := by
    rw [BitVec.and_assoc, BitVec.and_self]
  simp only [RxStatus.toWord, RxStatus.ofWord, fieldAt_extract, ← BitVec.and_or_distrib_left, hreserved]
  change w &&& (m.rxstsMask ||| ~~~m.rxstsMask) = w
  refine BitVec.eq_of_getLsbD_eq fun j hj => ?_
  simp only [BitVec.getLsbD_and, BitVec.getLsbD_or, BitVec.getLsbD_not, hj, decide_true, Bool.true_and,
    Bool.or_not_self, Bool.and_true]

/-- The reserved part shows nothing in a field. -/
theorem extract_reserved {n : Nat} (m : RegMap) (r : Word) (lo : Nat) (h : lo + n ≤ 32)
    (hm : fieldAt lo (BitVec.allOnes n) &&& m.rxstsMask = fieldAt lo (BitVec.allOnes n)) :
    (r &&& ~~~m.rxstsMask).extractLsb' lo n = 0#n := by
  have hones : (m.rxstsMask).extractLsb' lo n = BitVec.allOnes n := by
    have := congrArg (·.extractLsb' lo n) hm
    simpa only [BitVec.extractLsb'_and, extract_fieldAt _ _ h, BitVec.allOnes_and] using this
  refine BitVec.eq_of_getLsbD_eq fun j hj => ?_
  have hbit := congrArg (·.getLsbD j) hones
  simp only [BitVec.getLsbD_extractLsb', BitVec.getLsbD_allOnes, hj, decide_true, Bool.true_and] at hbit
  simp [hbit, -BitVec.getLsbD_eq_getElem]

/-- In a layout that keeps its fields apart each field is read back, and so are the reserved bits outside them. -/
theorem RxStatus.ofWord_toWord {m : RegMap} (h : m.wf = true) (st : RxStatus) :
    RxStatus.ofWord m (st.toWord m) = { st with reserved := st.reserved &&& ~~~m.rxstsMask } := by
  obtain ⟨hc1, hc2, hc3, hc4, hc5⟩ := m.rxstsMask_covers
  have hw := RegMap.rxsts_apart h
  simp only [fieldsApart_cons, List.forall_mem_cons, List.not_mem_nil, false_imp_iff, implies_true, and_true] at hw
  have hreserved : (st.toWord m) &&& ~~~m.rxstsMask = st.reserved &&& ~~~m.rxstsMask := by
    simp only [RxStatus.toWord, BitVec.and_or_distrib_right]
    rw [fieldAt_and_not_ones _ _ _ hc1, fieldAt_and_not_ones _ _ _ hc2, fieldAt_and_not_ones _ _ _ hc3,
      fieldAt_and_not_ones _ _ _ hc4, fieldAt_and_not_ones _ _ _ hc5, BitVec.and_assoc, BitVec.and_self]
    simp
  rw [RxStatus.ofWord, hreserved]
  simp (disch := first | omega | assumption) only [RxStatus.toWord, extract_or, extract_fieldAt,
    extract_fieldAt_apart, extract_reserved, BitVec.or_zero, BitVec.zero_or]

end Sys2Proof
end

section
/-! The decoder and the encoder (30_encoding.md rules R100 to R110): each undoes the other, event by event. -/

namespace Sys2Proof

open Machine

theorem decode_gintsts_wordBytes (c : Config) (w : Word) :
    decode c .gintsts (wordBytes w) = decodeGintsts c.regmap w := by
  simp only [decode, wordBytes, leWord_wordBytes]

theorem decode_rxsts_wordBytes (c : Config) (w : Word) :
    decode c .rxsts (wordBytes w) = .event (decodeRxsts c w) := by
  simp only [decode, wordBytes, leWord_wordBytes]

theorem decode_setup_toBytes (c : Config) (p : SetupPacket) :
    decode c .setup p.toBytes = .event (decodeSetup c p) := by
  have half : ∀ v : Half, v.extractLsb' 8 8 ++ v.extractLsb' 0 8 = v := fun v =>
    (BitVec.extractLsb'_append_extractLsb'_eq_extractLsb' (x := v) (start₁ := 0) (len₁ := 8) rfl).trans
      BitVec.extractLsb'_eq_self
  simp only [decode, SetupPacket.toBytes, SetupPacket.ofBytes, half]

/-- One interrupt bit alone is that event. -/
theorem decodeGintsts_bit {m : RegMap} (h : m.wf = true) :
    decodeGintsts m (bitAt m.usbrst true) = .event .usbrst ∧ decodeGintsts m (bitAt m.rxflvl true) = .event .rxflvl ∧
      decodeGintsts m (bitAt m.enumdne true) = .event .enumdne ∧
      decodeGintsts m (bitAt m.iepint true) = .event .iepint := by
  obtain ⟨hr, hu, he, hi, hru, hre, hri, hue, hui, hei⟩ := RegMap.gint_apart h
  refine ⟨?_, ?_, ?_, ?_⟩ <;>
    simp [decodeGintsts, gintstsEvents, bitAt_getLsbD_all, *, Ne.symm hru, Ne.symm hre, Ne.symm hri, Ne.symm hue,
      Ne.symm hui, Ne.symm hei, -BitVec.getLsbD_eq_getElem]

/-- A packet decodes to the event it belongs to: the tests of the decoder before that event's own fail. -/
theorem decodeSetup_of_wf {c : Config} {i : Instr} (hf : i.format = .setup) (h : i.wf c = true) :
    ∃ p, encode c i = p.toBytes ∧ decodeSetup c p = i := by
  cases i with
  | usbrst | rxflvl | enumdne | iepint | setupRx | setupDone | outRx | pktstsOther => cases hf
  | getDescriptorDevice p | getDescriptorConfiguration p | getDescriptorOther p | setAddress p | setConfiguration p =>
    refine ⟨p, rfl, ?_⟩
    simp_all [Instr.wf, decodeSetup, SetupPacket.asksDescriptor, reqGetDescriptor, reqSetAddress, reqSetConfiguration,
      dtDevice, dtConfiguration]
  | setInterfaceAsOff p | setInterfaceAsOn p | setInterfaceOther p =>
    refine ⟨p, rfl, ?_⟩
    simp only [Instr.wf, SetupPacket.asksAlternate, SetupPacket.asksInterface, Bool.and_eq_true, beq_iff_eq,
      bne_iff_ne, Bool.not_eq_true', Bool.eq_false_iff, ne_eq] at h
    rw [decodeSetup_setInterface (by tauto) (by tauto) (by tauto)]
    split_ifs <;> tauto
  | unsupportedRequest p => exact ⟨p, rfl, decodeSetup_of_not_listed (by simpa [Instr.wf] using h)⟩

/-- A word with no bit in the mask is its own reserved part. -/
theorem and_not_of_apart {r m : Word} (h : r &&& m = 0#32) : r &&& ~~~m = r := by
  refine BitVec.eq_of_getLsbD_eq fun j hj => ?_
  have hbit := congrArg (·.getLsbD j) h
  simp only [BitVec.getLsbD_and, BitVec.getLsbD_zero, BitVec.getLsbD_not, hj, decide_true, Bool.true_and] at hbit ⊢
  cases hr : r.getLsbD j <;> simp_all [-BitVec.getLsbD_eq_getElem]

/-- A status word decodes to the event it belongs to. -/
theorem decodeRxsts_of_wf {c : Config} {i : Instr} (hm : c.regmap.wf = true) (hf : i.format = .rxsts)
    (h : i.wf c = true) : ∃ st : RxStatus, encode c i = wordBytes (st.toWord c.regmap) ∧
      decodeRxsts c (st.toWord c.regmap) = i := by
  have hst : ∀ {st : RxStatus}, st.reservedApart c = true → RxStatus.ofWord c.regmap (st.toWord c.regmap) = st := by
    intro st hr
    rw [RxStatus.ofWord_toWord hm, and_not_of_apart (by simpa [RxStatus.reservedApart] using hr)]
  cases i with
  | setupRx st | setupDone st | outRx st | pktstsOther st =>
    simp only [Instr.wf, Bool.and_eq_true, beq_iff_eq, bne_iff_ne] at h
    refine ⟨st, rfl, ?_⟩
    simp only [decodeRxsts, hst (by tauto)]
    split_ifs <;> simp_all
  | _ => cases hf

/-- Settles O1, format by format: the bytes are put together to the word or the packet they were made of, which decodes to
the event it belongs to. -/
theorem encodeThenDecodeGivesTheEvent : Obligations.EncodeThenDecodeGivesTheEvent := by
  intro c i hm h
  obtain ⟨hu, hr, he, hi⟩ := decodeGintsts_bit hm
  cases hf : i.format with
  | gintsts =>
    cases i with
    | usbrst => exact (decode_gintsts_wordBytes c _).trans hu
    | rxflvl => exact (decode_gintsts_wordBytes c _).trans hr
    | enumdne => exact (decode_gintsts_wordBytes c _).trans he
    | iepint => exact (decode_gintsts_wordBytes c _).trans hi
    | _ => cases hf
  | rxsts =>
    obtain ⟨st, henc, hdec⟩ := decodeRxsts_of_wf hm hf h
    rw [henc, decode_rxsts_wordBytes, hdec]
  | setup =>
    obtain ⟨p, henc, hdec⟩ := decodeSetup_of_wf hf h
    rw [henc, decode_setup_toBytes, hdec]

/-! ## From bytes to events and back -/

/-- What the decoder answers for a status word belongs to the word and encodes to it, in every layout. -/
theorem decodeRxsts_wf_encode (c : Config) (w : Word) :
    (decodeRxsts c w).wf c = true ∧ (decodeRxsts c w).format = .rxsts ∧ encode c (decodeRxsts c w) = wordBytes w := by
  have hapart : (RxStatus.ofWord c.regmap w).reservedApart c = true := by
    have h : w &&& ~~~c.regmap.rxstsMask &&& c.regmap.rxstsMask = 0#32 := by
      rw [BitVec.and_assoc, BitVec.not_and_self]
      exact BitVec.and_zero
    simp [RxStatus.reservedApart, RxStatus.ofWord, h]
  have hword := RxStatus.toWord_ofWord c.regmap w
  unfold decodeRxsts
  dsimp only
  split_ifs <;> refine ⟨?_, rfl, congrArg wordBytes hword⟩ <;> simp_all [Instr.wf]

theorem encode_decodeSetup (c : Config) (p : SetupPacket) : encode c (decodeSetup c p) = p.toBytes :=
  Machine.decodeSetup_elim (P := fun i => encode c i = p.toBytes) c p rfl rfl rfl rfl rfl rfl rfl rfl rfl

/-- The bytes of a packet are those it was read from. -/
theorem toBytes_ofBytes (b0 b1 b2 b3 b4 b5 b6 b7 : Byte) :
    (SetupPacket.ofBytes b0 b1 b2 b3 b4 b5 b6 b7).toBytes = [b0, b1, b2, b3, b4, b5, b6, b7] := by
  have low : ∀ hi lo : Byte, (hi ++ lo).extractLsb' 0 8 = lo := by
    intro hi lo
    refine BitVec.eq_of_getLsbD_eq fun j hj => ?_
    simp only [BitVec.getLsbD_extractLsb', BitVec.getLsbD_append, hj, decide_true, Bool.true_and, Nat.zero_add,
      if_true]
  have high : ∀ hi lo : Byte, (hi ++ lo).extractLsb' 8 8 = hi := by
    intro hi lo
    refine BitVec.eq_of_getLsbD_eq fun j hj => ?_
    have hge : ¬ 8 + j < 8 := by omega
    simp only [BitVec.getLsbD_extractLsb', BitVec.getLsbD_append, hj, decide_true, Bool.true_and, hge, if_false,
      Nat.add_sub_cancel_left]
  simp only [SetupPacket.toBytes, SetupPacket.ofBytes, low, high]

/-- If one of the four bits alone is set, the word without its reserved bits is that bit. -/
theorem and_gintMask_of_one {m : RegMap} {w : Word} {k : Nat} (hk : k ∈ [m.usbrst, m.rxflvl, m.enumdne, m.iepint])
    (h : ∀ j ∈ [m.usbrst, m.rxflvl, m.enumdne, m.iepint], w.getLsbD j = decide (k = j)) :
    bitAt k true = w &&& m.gintMask := by
  refine BitVec.eq_of_getLsbD_eq fun j hj => ?_
  simp only [RegMap.gintMask, BitVec.getLsbD_and, BitVec.getLsbD_or, bitAt_getLsbD_all, hj, decide_true,
    Bool.true_and]
  grind

/-- A `GINTSTS` word that is one event has, of the four bits, that event's alone. -/
theorem encode_of_decodeGintsts (c : Config) (w : Word) {i : Instr} (h : decodeGintsts c.regmap w = .event i) :
    i.wf c = true ∧ i.format = .gintsts ∧ encode c i = wordBytes (w &&& c.regmap.gintMask) := by
  have hone : gintstsEvents c.regmap w = [i] := by
    unfold decodeGintsts at h
    split at h <;> simp_all
  have hu := Machine.mem_gintstsEvents_usbrst c.regmap w
  have hr := Machine.mem_gintstsEvents_rxflvl c.regmap w
  have he := Machine.mem_gintstsEvents_enumdne c.regmap w
  have hi := Machine.mem_gintstsEvents_iepint c.regmap w
  have hmem : i ∈ gintstsEvents c.regmap w := by simp [hone]
  simp only [hone, List.mem_singleton] at hu hr he hi
  cases i with
  | usbrst | rxflvl | enumdne | iepint =>
    refine ⟨rfl, rfl, congrArg wordBytes (and_gintMask_of_one (by simp) ?_)⟩
    simp only [List.forall_mem_cons, List.not_mem_nil, false_imp_iff, implies_true, and_true]
    grind
  | _ => simp [gintstsEvents] at hmem

/-- Settles O2, format by format. -/
theorem decodeThenEncodeGivesTheBytes : Obligations.DecodeThenEncodeGivesTheBytes := by
  intro c f bs i h
  unfold decode at h
  split at h
  case h_1 b0 b1 b2 b3 =>
    obtain ⟨hwf, hf, henc⟩ := encode_of_decodeGintsts c _ h
    exact ⟨hwf, hf, fun hne => absurd rfl hne, fun _ => ⟨_, (Machine.wordBytes_leWord ..).symm, henc⟩⟩
  case h_2 b0 b1 b2 b3 =>
    cases h
    obtain ⟨hwf, hf, henc⟩ := decodeRxsts_wf_encode c (leWord b0 b1 b2 b3)
    exact ⟨hwf, hf, fun _ => henc.trans (Machine.wordBytes_leWord ..), nofun⟩
  case h_3 b0 b1 b2 b3 b4 b5 b6 b7 =>
    cases h
    exact ⟨Machine.decodeSetup_wf .., Machine.decodeSetup_format ..,
      fun _ => (encode_decodeSetup ..).trans (toBytes_ofBytes ..), nofun⟩
  case h_4 => cases h

/-- Settles O3: the right number of bytes is the decoder's own case; a `GINTSTS` word is an event exactly when its list of
events has one. -/
theorem everyWordDecodes : Obligations.EveryWordDecodes := by
  refine ⟨fun c bs h => ?_, fun c bs h => ?_, fun c w => ?_⟩
  · obtain ⟨b0, b1, b2, b3, rfl⟩ : ∃ b0 b1 b2 b3, bs = [b0, b1, b2, b3] := by
      match bs, h with
      | [b0, b1, b2, b3], _ => exact ⟨b0, b1, b2, b3, rfl⟩
    exact ⟨_, rfl⟩
  · obtain ⟨b0, b1, b2, b3, b4, b5, b6, b7, rfl⟩ :
        ∃ b0 b1 b2 b3 b4 b5 b6 b7, bs = [b0, b1, b2, b3, b4, b5, b6, b7] := by
      match bs, h with
      | [b0, b1, b2, b3, b4, b5, b6, b7], _ => exact ⟨b0, b1, b2, b3, b4, b5, b6, b7, rfl⟩
    exact ⟨_, rfl⟩
  · rw [decode_gintsts_wordBytes, decodeGintsts]
    match gintstsEvents c.regmap w with
    | [] | [i] | _ :: _ :: _ => simp

/-- Settles O4: the six words, each by evaluation. -/
theorem vectorWordsDecode : Obligations.VectorWordsDecode := by
  refine ⟨?_, ?_, ?_, ?_, ?_, ?_⟩ <;> decide

end Sys2Proof
end


section
/-! The interrupt line and the registers on words (60_exceptions.md rule R288, 10_state.md rule R35). -/

namespace Sys2Proof.Machine

/-! ## The interrupt line -/

theorem and_or_ne_zero (w a b : Word) : (w &&& (a ||| b) != 0) = ((w &&& a != 0) || (w &&& b != 0)) := by
  rw [BitVec.and_or_distrib_left, Bool.eq_iff_iff]
  simp only [Bool.or_eq_true, bne_iff_ne, ne_eq]
  rw [← not_and_or]
  exact not_congr BitVec.or_eq_zero_iff

/-- A word shows one bit of a mask exactly when it has that bit. -/
theorem and_bitAt_ne_zero (w : Word) {i : Nat} (hi : i < 32) (b : Bool) :
    (w &&& bitAt i b != 0) = (w.getLsbD i && b) := by
  rw [Bool.eq_iff_iff]
  simp only [bne_iff_ne, ne_eq, Bool.and_eq_true]
  constructor
  · intro h
    by_contra hoff
    refine h (BitVec.eq_of_getLsbD_eq fun j _ => ?_)
    rw [BitVec.getLsbD_and, bitAt_getLsbD i j b hi]
    by_cases hij : i = j
    · subst hij
      simpa using hoff
    · simp [hij]
  · rintro ⟨hw, hb⟩ h
    have hbit := congrArg (·.getLsbD i) h
    simp [hw, hb, bitAt_getLsbD i i _ hi, -BitVec.getLsbD_eq_getElem] at hbit

/-- The line is the masked status word, bit by bit. -/
theorem irq_eq_masked {s : State} (h : s.cfg.regmap.wf = true) :
    s.irq = (s.regWord .gintsts &&& s.regWord .gintmsk != 0) := by
  obtain ⟨hr, hu, he, hi, -⟩ := RegMap.gint_apart h
  simp only [State.regWord, GintMask.toWord, and_or_ne_zero, and_bitAt_ne_zero _ hr, and_bitAt_ne_zero _ hu,
    and_bitAt_ne_zero _ he, and_bitAt_ne_zero _ hi, gintsts_usbrst h, gintsts_rxflvl h, gintsts_enumdne h,
    gintsts_iepint h]
  rfl

/-- Settles O12, from the line as the masked word and the definition of a service move. -/
theorem interruptLineIsMaskedStatus : Obligations.InterruptLineIsMaskedStatus := by
  refine fun s h => ⟨irq_eq_masked h, fun rest hs => ?_⟩
  rw [← irq_eq_masked h]
  simp only [step, hs]

/-! ## Register accesses by word -/

/-- Settles O41: the closed forms of the two operations, and the layout's words. -/
theorem armingWordsOnThePort : Obligations.ArmingWordsOnThePort := by
  refine ⟨fun s => ?_, fun s => ?_, fun k => ?_⟩
  · rw [resetEp0_eq, logAll_accesses, List.drop_left]
    decide
  · rw [enableStreaming_eq, logAll_accesses, List.drop_left]
    decide
  · have hone : fieldAt RegMap.default.pktcnt (1 : BitVec 10) = (1 <<< 19 : Word) := by decide
    have hlow : fieldAt RegMap.default.xfrsiz k = k.setWidth 32 := BitVec.shiftLeft_zero _
    rw [RegWrite.toWord, EpTsiz.toWord, hone, hlow, BitVec.or_comm]

/-- A register written by word is another register's matter, but for its own fields. -/
theorem regWriteWord_frame (r : RegName) (w : Word) (s : State) :
    (regWriteWord r w s).cfg = s.cfg ∧ (regWriteWord r w s).rxFifo = s.rxFifo := by
  cases r with
  | gintsts | gintmsk | rxfsiz | devcfg | depmsk => exact ⟨rfl, rfl⟩
  | txfsiz n => cases n <;> exact ⟨rfl, rfl⟩
  | epctl d n | eptsiz d n | epint d n => cases d <;> cases n <;> exact ⟨rfl, rfl⟩

/-- What `EPCTL` reads as after a write: the stored fields in their places and the command bit 0. -/
theorem regWord_epctl_written (d : Dir) (n : Ep) (w : Word) (s : State) :
    (regWriteWord (.epctl d n) w s).regWord (.epctl d n) =
      EpCtlWrite.toWord s.cfg.regmap
        ⟨w.extractLsb' s.cfg.regmap.mps 11, (s.ep d n).ctl.nak && !w.getLsbD s.cfg.regmap.cnak,
          w.getLsbD s.cfg.regmap.stall, false, w.getLsbD s.cfg.regmap.enabled⟩ := by
  cases d <;> cases n <;> rfl

/-- A register whose fields are all `rw` reads as what was written. -/
theorem regWord_written {r : RegName} (w : Word) (s : State) (h1 : r ≠ .gintsts) (h2 : ∀ d n, r ≠ .epctl d n)
    (h3 : ∀ d n, r ≠ .epint d n) :
    (regWriteWord r w s).regWord r = (RegWrite.ofWord s.cfg.regmap r w).toWord s.cfg.regmap := by
  cases r with
  | gintsts => exact absurd rfl h1
  | epctl d n => exact absurd rfl (h2 d n)
  | epint d n => exact absurd rfl (h3 d n)
  | gintmsk | rxfsiz | devcfg | depmsk => rfl
  | txfsiz n => cases n <;> rfl
  | eptsiz d n => cases d <;> cases n <;> rfl

theorem name_ofWord (m : RegMap) (r : RegName) (w : Word) : (RegWrite.ofWord m r w).name = r := by
  cases r <;> rfl

/-- Settles O40: the fields of a write are those of its word, and what is read back is read from the word of the fields
stored. -/
theorem registerAccessKinds : Obligations.RegisterAccessKinds := by
  intro s w
  dsimp only
  refine ⟨?_, ?_, ?_, rfl, rfl, rfl, rfl, rfl, rfl, rfl, rfl, rfl, rfl,
    fun hm => ⟨fun d n => ?_, fun d n => ?_, fun r => ?_, fun r h1 h2 h3 => ?_⟩⟩
  · rintro (_ | _) (_ | _) <;> rfl
  · rintro (_ | _) (_ | _) <;> rfl
  · rintro (_ | _) (_ | _) <;> rfl
  · rw [regWord_epctl_written]
    exact congrArg EpCtlWrite.cnak (epCtlWrite_readBack hm _)
  · rw [regWord_epctl_written]
    exact congrArg EpCtlWrite.mps (epCtlWrite_readBack hm _)
  · obtain ⟨hcfg, hrx⟩ := regWriteWord_frame r w s
    have hread := gintsts_rxflvl (s := regWriteWord r w s) (hcfg ▸ hm)
    rw [hcfg] at hread
    rw [State.regWord, hread, State.rxflvl, hrx, State.rxflvl]
  · have hback := portWordCarriesTheFields s.cfg.regmap (RegWrite.ofWord s.cfg.regmap r w) hm
    rwa [name_ofWord, ← regWord_written w s h1 h2 h3] at hback

end Sys2Proof.Machine
end

section
/-! The decode map as masks and matches (30_encoding.md rule R109), under the default parameters: a row matches exactly when
the fields its mask covers have their values. -/

namespace Sys2Proof

/-! ## Masks -/

/-- A mask over one field matches a value exactly when the field has it. -/
theorem and_field_eq_iff {n k : Nat} (S : BitVec n) (lo : Nat) (v : BitVec k) (h : lo + k ≤ n) :
    S &&& ((BitVec.allOnes k).setWidth n <<< lo) = v.setWidth n <<< lo ↔ S.extractLsb' lo k = v := by
  constructor <;> intro heq <;> refine BitVec.eq_of_getLsbD_eq fun j hj => ?_
  · have hbit := congrArg (·.getLsbD (lo + j)) heq
    have hlt : lo + j < n := by omega
    have hj' : j < n := by omega
    simpa [hj, hj', hlt, -BitVec.getLsbD_eq_getElem] using hbit
  · rw [← heq]
    by_cases hlo : j < lo
    · simp [hlo, -BitVec.getLsbD_eq_getElem]
    · have hadd : lo + (j - lo) = j := by omega
      have hj' : j - lo < n := by omega
      simp [hj, hlo, hj', hadd, Bool.and_comm, -BitVec.getLsbD_eq_getElem]

/-- Two masks match their values together exactly when each does, where no value has a bit in the other's mask. -/
theorem and_or_eq_iff {n : Nat} {m₁ m₂ p₁ p₂ : BitVec n} (S : BitVec n) (hm : m₁ &&& m₂ = 0#n)
    (h₁ : p₁ &&& m₁ = p₁) (h₂ : p₂ &&& m₂ = p₂) :
    S &&& (m₁ ||| m₂) = p₁ ||| p₂ ↔ S &&& m₁ = p₁ ∧ S &&& m₂ = p₂ := by
  refine ⟨fun h => ⟨?_, ?_⟩, fun ⟨ha, hb⟩ => by rw [BitVec.and_or_distrib_left, ha, hb]⟩ <;>
    refine BitVec.eq_of_getLsbD_eq fun j _ => ?_
  all_goals
    have hbits := congrArg (·.getLsbD j) h
    have hmj := congrArg (·.getLsbD j) hm
    have h₁j := congrArg (·.getLsbD j) h₁
    have h₂j := congrArg (·.getLsbD j) h₂
    simp only [BitVec.getLsbD_and, BitVec.getLsbD_or, BitVec.getLsbD_zero] at *
    grind

/-- A row that looks at one field more than another. -/
theorem and_add_field_eq_iff {n k : Nat} (S : BitVec n) {M M' P P' : BitVec n} (lo : Nat) (v : BitVec k)
    (hlo : lo + k ≤ n)
    (h : M' = M ||| (BitVec.allOnes k).setWidth n <<< lo ∧ P' = P ||| v.setWidth n <<< lo ∧
      M &&& (BitVec.allOnes k).setWidth n <<< lo = 0#n ∧ P &&& M = P ∧
      v.setWidth n <<< lo &&& (BitVec.allOnes k).setWidth n <<< lo = v.setWidth n <<< lo) :
    S &&& M' = P' ↔ S &&& M = P ∧ S.extractLsb' lo k = v := by
  obtain ⟨rfl, rfl, hm, h₁, h₂⟩ := h
  rw [and_or_eq_iff S hm h₁ h₂, and_field_eq_iff S lo v hlo]

/-! ## The rows -/

theorem code_row (S : BitVec 64) :
    (S &&& 0x000000000000FF00 = 0x0000000000000600 ↔ S.extractLsb' 8 8 = 0x06) ∧
    (S &&& 0x000000000000FF00 = 0x0000000000000500 ↔ S.extractLsb' 8 8 = 0x05) ∧
    (S &&& 0x000000000000FF00 = 0x0000000000000900 ↔ S.extractLsb' 8 8 = 0x09) ∧
    (S &&& 0x000000000000FF00 = 0x0000000000000B00 ↔ S.extractLsb' 8 8 = 0x0B) :=
  ⟨and_field_eq_iff S 8 (0x06 : Byte) (by decide), and_field_eq_iff S 8 (0x05 : Byte) (by decide),
    and_field_eq_iff S 8 (0x09 : Byte) (by decide), and_field_eq_iff S 8 (0x0B : Byte) (by decide)⟩

theorem descriptor_row (S : BitVec 64) :
    (S &&& 0x00000000FF00FF00 = 0x0000000001000600 ↔ S.extractLsb' 8 8 = 0x06 ∧ S.extractLsb' 24 8 = 0x01) ∧
    (S &&& 0x00000000FF00FF00 = 0x0000000002000600 ↔ S.extractLsb' 8 8 = 0x06 ∧ S.extractLsb' 24 8 = 0x02) := by
  rw [← (code_row S).1]
  exact ⟨and_add_field_eq_iff S 24 (0x01 : Byte) (by decide) (by decide),
    and_add_field_eq_iff S 24 (0x02 : Byte) (by decide) (by decide)⟩

theorem interface_row (S : BitVec 64) :
    (S &&& 0x000000000000FF1F = 0x0000000000000B01 ↔
      S.extractLsb' 8 8 = 0x0B ∧ S.extractLsb' 0 5 = (1 : BitVec 5)) := by
  rw [← (code_row S).2.2.2]
  exact and_add_field_eq_iff S 0 (1 : BitVec 5) (by decide) (by decide)

theorem index_row (S : BitVec 64) :
    (S &&& 0x0000FFFF0000FF1F = 0x0000000100000B01 ↔
      (S.extractLsb' 8 8 = 0x0B ∧ S.extractLsb' 0 5 = (1 : BitVec 5)) ∧ S.extractLsb' 32 16 = (1 : Half)) := by
  rw [← interface_row]
  exact and_add_field_eq_iff S 32 (1 : Half) (by decide) (by decide)

theorem alternate_row (S : BitVec 64) :
    (S &&& 0x0000FFFFFFFFFF1F = 0x0000000100000B01 ↔
      ((S.extractLsb' 8 8 = 0x0B ∧ S.extractLsb' 0 5 = (1 : BitVec 5)) ∧ S.extractLsb' 32 16 = (1 : Half)) ∧
        S.extractLsb' 16 16 = (0 : Half)) ∧
    (S &&& 0x0000FFFFFFFFFF1F = 0x0000000100010B01 ↔
      ((S.extractLsb' 8 8 = 0x0B ∧ S.extractLsb' 0 5 = (1 : BitVec 5)) ∧ S.extractLsb' 32 16 = (1 : Half)) ∧
        S.extractLsb' 16 16 = (1 : Half)) := by
  rw [← index_row]
  exact ⟨and_add_field_eq_iff S 16 (0 : Half) (by decide) (by decide),
    and_add_field_eq_iff S 16 (1 : Half) (by decide) (by decide)⟩

/-- The status code stands in one field. -/
theorem status_row (w : Word) :
    (w &&& 0x001E0000 = 0x000C0000 ↔ w.extractLsb' 17 4 = 0b0110) ∧
    (w &&& 0x001E0000 = 0x00080000 ↔ w.extractLsb' 17 4 = 0b0100) ∧
    (w &&& 0x001E0000 = 0x00040000 ↔ w.extractLsb' 17 4 = 0b0010) :=
  ⟨and_field_eq_iff w 17 (0b0110 : BitVec 4) (by decide), and_field_eq_iff w 17 (0b0100 : BitVec 4) (by decide),
    and_field_eq_iff w 17 (0b0010 : BitVec 4) (by decide)⟩

/-- The first row that matches, row by row. -/
theorem find?_map_cons {α β : Type} (p : α → Bool) (f : α → β) (r : α) (rows : List α) :
    ((r :: rows).find? p).map f = if p r = true then some (f r) else (rows.find? p).map f := by
  rw [List.find?_cons]
  cases p r <;> rfl

/-- The fields of the packet of `S` in the bits of `S`. -/
theorem fields_ofS (S : BitVec 64) :
    (SetupPacket.ofS S).request = S.extractLsb' 8 8 ∧ (SetupPacket.ofS S).descriptorType = S.extractLsb' 24 8 ∧
      (SetupPacket.ofS S).recipient = S.extractLsb' 0 5 ∧ (SetupPacket.ofS S).interfaceNumber = S.extractLsb' 32 16 ∧
      (SetupPacket.ofS S).alternateSetting = S.extractLsb' 16 16 := by
  refine ⟨?_, ?_, ?_, ?_, ?_⟩ <;> refine BitVec.eq_of_getLsbD_eq fun j hj => ?_ <;>
    simp only [SetupPacket.ofS, SetupPacket.ofWords, SetupPacket.descriptorType, SetupPacket.recipient,
      SetupPacket.interfaceNumber, SetupPacket.alternateSetting, BitVec.getLsbD_extractLsb', hj, decide_true,
      Bool.true_and] <;>
    grind

/-- Settles O5: each test of the decoder is the match of its row. -/
theorem decodeMapIsTheMaskTable : Obligations.DecodeMapIsTheMaskTable := by
  constructor
  · intro S
    obtain ⟨hreq, htype, hrec, hindex, hvalue⟩ := fields_ofS S
    obtain ⟨h6, h5, h9, -⟩ := code_row S
    obtain ⟨hdev, hcfg⟩ := descriptor_row S
    obtain ⟨hoff, hon⟩ := alternate_row S
    have hother := interface_row S
    have hall : S &&& 0 = 0 := BitVec.and_zero
    have htyped : ∀ p : SetupPacket, p.typeAllowed Config.default = true := fun _ => rfl
    have hto : ∀ p : SetupPacket, p.recipientAllowed Config.default = (p.recipient == 1) := fun _ => rfl
    have hactive : Config.default.asAltActive = 1 := rfl
    simp only [tableSetup, setupRows, find?_map_cons, decodeSetup, htyped, hto, hactive, hreq, htype, hrec, hindex,
      hvalue, Bool.true_and, Bool.and_eq_true, beq_iff_eq, apply_ite some, hdev, hcfg, h6, h5, h9, hoff,
      hon, hother, hall, if_true]
    rfl
  · intro w
    obtain ⟨hs, hd, ho⟩ := status_row w
    have hall : w &&& 0 = 0 := BitVec.and_zero
    simp only [tableRxsts, rxRows, find?_map_cons, decodeRxsts, beq_iff_eq, apply_ite some, hs, hd, ho, hall, if_true]
    rfl

end Sys2Proof
end

section
/-! The invariant of the machine (10_state.md rule R32, 42_control_transfer_engine.md rule R186): it holds at power-on, and
every event and every environment step keeps it. -/

namespace Sys2Proof.Machine

/-! ## Power-on -/

/-- Settles O42: the power-on state, field by field. -/
theorem powerOnValues : Obligations.PowerOnValues := by
  refine ⟨rfl, fun c => ⟨rfl, rfl, rfl, rfl, rfl, rfl, rfl, rfl, rfl, rfl, rfl, rfl, rfl, rfl, rfl, rfl, ?_, rfl, ?_,
    rfl, rfl, rfl, rfl⟩⟩
  · rintro (_ | _) (_ | _) <;> rfl
  · rintro (_ | _) <;> rfl

/-- With nothing queued, nothing armed and no transfer the invariant rests on the form of the memories alone. -/
theorem powerOn_inv {c : Config} (h : Memory.wf (State.powerOn c) = true) : (State.powerOn c).Inv where
  memory := h
  notDecoding := nofun
  streaming := ⟨rfl, rfl⟩
  chunk := rfl
  context := fun _ => ⟨rfl, rfl⟩
  transfer := nofun
  outRoom := ⟨Nat.zero_le _, Nat.zero_le _⟩

/-- Settles O43, from the form of the memories at power-on. -/
theorem invariantHoldsAtReset : Obligations.InvariantHoldsAtReset :=
  ⟨powerOn_inv reset_memory_wf, rfl, fun c h => ⟨powerOn_inv (powerOn_memory_wf c h), rfl⟩⟩

/-! ## Requests -/

/-- Words added to TX FIFO 0 within its depth keep the form of the memories. -/
theorem memory_wf_txFifo0 {s t : State} (hcfg : t.cfg = s.cfg) (hrx : t.rxFifo = s.rxFifo)
    (htx : t.txFifo0.length ≤ s.txFifo0.length ∨ t.txFifo0.length ≤ s.cfg.txFifoDepth0.toNat)
    (hs : t.txFifoS = s.txFifoS) (h : Memory.wf s = true) : Memory.wf t = true := by
  rw [memory_wf_iff] at *
  rw [hcfg, hrx, hs]
  omega

theorem length_append_packBytes {q : List Word} {bs : List Byte} {k n : Nat} (hk : bs.length ≤ k)
    (h : k = 0 ∨ q.length + ceil4 k ≤ n) :
    (q ++ packBytes bs).length ≤ q.length ∨ (q ++ packBytes bs).length ≤ n := by
  rw [List.length_append, packBytes_length]
  unfold ceil4 at *
  omega

/-- A response begun keeps the invariant: it is coherent from its first packet on. -/
theorem responseStarted_inv {src : Src} {p : SetupPacket} {s : State} (hs : s.Inv)
    (hroom : firstChunk (min p.length.toNat (s.store src).length) = 0 ∨
      s.txFifo0.length + ceil4 (firstChunk (min p.length.toNat (s.store src).length)) ≤ s.cfg.txFifoDepth0.toNat) :
    (responseStarted src p s).Inv where
  memory := memory_wf_txFifo0 (s := s) rfl rfl (length_append_packBytes (List.length_take_le ..) hroom) rfl hs.memory
  notDecoding := nofun
  streaming := hs.streaming
  chunk := rfl
  context := fun h => absurd rfl h
  transfer := by
    intro _
    have htotal : responseTotal (responseStarted src p s) (responseStarted src p s).ctx.src =
        min p.length.toNat (s.store src).length := rfl
    have hlt : min p.length.toNat (s.store src).length < 65536 := by
      have := p.length.isLt
      omega
    have hle := firstChunk_le (min p.length.toNat (s.store src).length)
    rw [htotal]
    dsimp only [responseStarted]
    generalize min p.length.toNat (s.store src).length = n at *
    have hk : firstChunk n = min 64 n := rfl
    have hoff : (BitVec.ofNat 16 (firstChunk n)).toNat = firstChunk n := by
      rw [BitVec.toNat_ofNat, Nat.mod_eq_of_lt (by omega)]
    have hrem : (BitVec.ofNat 16 (n - firstChunk n)).toNat = n - firstChunk n := by
      rw [BitVec.toNat_ofNat, Nat.mod_eq_of_lt (by omega)]
    refine ⟨by omega, by omega, fun hz => ?_⟩
    have h64 : n = 64 := by
      rw [Bool.and_eq_true, decide_eq_true_eq] at hz
      exact hz.1
    rw [h64]
    rfl
  outRoom := hs.outRoom

/-- The streaming packet size can be counted by a status word: it has 11 bits. -/
theorem streamMps_countable (s : State) : (s.cfg.streamMps.setWidth 19).toNat ≤ 2047 := by
  have := s.cfg.streamMps.isLt
  rw [BitVec.toNat_setWidth]
  omega

/-- Every request keeps the invariant. -/
theorem exec_decodeSetup_inv (c : Config) (p : SetupPacket) {s t : State} (hs : s.Inv)
    (h : exec (decodeSetup c p) s = .next t) : t.Inv := by
  refine decodeSetup_elim (P := fun i => exec i s = .next t → t.Inv) c p
    ?device ?configuration ?other ?address ?setConfiguration ?off ?on ?interfaceOther ?unsupported h
  case device =>
    intro h
    obtain ⟨rfl, hroom⟩ := exec_descriptorRequest_next (src := .dev) h
    exact responseStarted_inv hs hroom
  case configuration =>
    intro h
    obtain ⟨rfl, hroom⟩ := exec_descriptorRequest_next (src := .cfg) h
    exact responseStarted_inv hs hroom
  case other =>
    intro h
    rw [getDescriptorOtherStallsIn.2] at h
    cases h
    exact ⟨hs.memory, nofun, hs.streaming, hs.chunk, fun _ => ⟨rfl, rfl⟩, nofun, hs.outRoom⟩
  case address =>
    intro h
    rw [setAddressWritesTheAddress.2] at h
    cases h
    exact ⟨hs.memory, nofun, hs.streaming, hs.chunk, fun _ => ⟨rfl, rfl⟩, nofun, hs.outRoom⟩
  case setConfiguration =>
    intro h
    rw [setConfigurationAcknowledges.2] at h
    cases h
    exact ⟨hs.memory, nofun, hs.streaming, hs.chunk, fun _ => ⟨rfl, rfl⟩, nofun, hs.outRoom⟩
  case off =>
    intro h
    rw [setInterfaceOffDisablesStreaming.2] at h
    cases h
    exact ⟨hs.memory, nofun, ⟨rfl, rfl⟩, hs.chunk, fun _ => ⟨rfl, rfl⟩, nofun, hs.outRoom⟩
  case on =>
    intro h
    rw [setInterfaceOnEnablesStreaming.2] at h
    cases h
    have hroom : (s.cfg.streamMps.setWidth 19).toNat ≤ 2047 := streamMps_countable s
    exact ⟨hs.memory, nofun, ⟨rfl, rfl⟩, hs.chunk, fun _ => ⟨rfl, rfl⟩, nofun, hs.outRoom.1, hroom⟩
  case interfaceOther =>
    intro h
    rw [setInterfaceOtherAcknowledges.2] at h
    cases h
    exact ⟨hs.memory, nofun, hs.streaming, hs.chunk, fun _ => ⟨rfl, rfl⟩, nofun, hs.outRoom⟩
  case unsupported =>
    intro h
    rw [unsupportedRequestStallsBoth.2] at h
    cases h
    exact ⟨hs.memory, nofun, hs.streaming, hs.chunk, fun _ => ⟨rfl, rfl⟩, nofun, hs.outRoom⟩

/-! ## Receive entries -/

/-- Words taken from the RX FIFO leave the invariant. -/
theorem popped_inv {s : State} (hs : s.Inv) {q : List Word} (l : List Access) (hq : q.length ≤ s.rxFifo.length) :
    State.Inv { s with rxFifo := q, accesses := l } :=
  ⟨memory_wf_of_eq (s := s) rfl hq (Nat.le_refl _) (Nat.le_refl _) hs.memory, hs.notDecoding, hs.streaming, hs.chunk,
    hs.context, hs.transfer, hs.outRoom⟩

/-- Endpoint 0 OUT armed leaves the invariant. -/
theorem armOut_ep0_inv {s : State} (hs : s.Inv) : (armOut .ep0 s).Inv := by
  have hroom : (64 : BitVec 19).toNat ≤ 2047 := by decide
  rw [armOut_ep0_eq]
  exact ⟨hs.memory, hs.notDecoding, hs.streaming, hs.chunk, hs.context, hs.transfer, hroom, hs.outRoom.2⟩

/-- The streaming endpoint armed leaves the invariant while streaming is on. -/
theorem armOut_stream_inv {s : State} (hs : s.Inv) (hon : s.streamingEnabled = true) : (armOut .stream s).Inv := by
  rw [armOut_stream_eq]
  exact ⟨hs.memory, hs.notDecoding, ⟨hs.streaming.1, hon.symm⟩, hs.chunk, hs.context, hs.transfer, hs.outRoom.1,
    streamMps_countable s⟩

theorem exec_decodeRxsts_inv (c : Config) (w : Word) {s t : State} (hs : s.Inv)
    (h : exec (decodeRxsts c w) s = .next t) : t.Inv := by
  refine decodeRxsts_elim (P := fun i _ => exec i s = .next t → t.Inv) c w ?setup ?done ?out ?other h
  case setup =>
    intro st h
    obtain ⟨w0, w1, rest, hq, ht⟩ := exec_setupRx_next h
    exact exec_decodeSetup_inv _ _ (popped_inv hs _ (by simp [hq]; omega)) ht
  case done =>
    intro st h
    cases h
    exact armOut_ep0_inv hs
  case out =>
    intro st h
    have hpop := fun l => popped_inv hs (q := s.rxFifo.drop (ceil4 st.bcnt.toNat)) l (by simp)
    rw [exec_outRx_eq (exec_outRx_received h).length] at h
    dsimp only at h
    split_ifs at h with h0 hstr
    all_goals cases h
    · exact armOut_ep0_inv (hpop _)
    · exact armOut_stream_inv (hpop _) hstr.2
    · exact hpop _
  case other =>
    intro st h
    cases h
    exact hs

/-! ## Completions -/

/-- The response is bounded by the host's cap, which has 16 bits. -/
theorem responseTotal_lt (s : State) (src : Src) : responseTotal s src < 65536 := by
  have := s.setup.length.isLt
  unfold responseTotal SetupPacket.responseCap
  omega

/-- The endpoint's flag and the access list are no part of the invariant. -/
theorem completionTaken_inv {s : State} (hs : s.Inv) : (completionTaken s).Inv :=
  ⟨hs.memory, hs.notDecoding, hs.streaming, hs.chunk, hs.context, hs.transfer, hs.outRoom⟩

theorem streamScanned_inv {s : State} (hs : s.Inv) : (streamScanned s).Inv :=
  ⟨hs.memory, hs.notDecoding, hs.streaming, hs.chunk, hs.context, hs.transfer, hs.outRoom⟩

theorem chunkSent_inv {s : State} (hs : s.Inv) (hc : s.cteState = .txInProgress) (hr : s.ctx.remaining ≠ 0)
    (hroom : s.ctx.chunk = 0 ∨ s.txFifo0.length + ceil4 s.ctx.chunk ≤ s.cfg.txFifoDepth0.toNat) :
    (chunkSent s).Inv where
  memory := memory_wf_txFifo0 (s := s) rfl rfl (length_append_packBytes (List.length_take_le ..) hroom) rfl hs.memory
  notDecoding := hs.notDecoding
  streaming := hs.streaming
  chunk := hs.chunk
  context := fun h => absurd hc h
  transfer := by
    intro _
    obtain ⟨hsum, hpos, hzlp⟩ := hs.transfer hc
    have htotal : responseTotal (chunkSent s) (chunkSent s).ctx.src = responseTotal s s.ctx.src := rfl
    have hlt := responseTotal_lt s s.ctx.src
    have hmps : s.ctx.mps.toNat = 64 := congrArg BitVec.toNat hs.chunk
    have hne : s.ctx.remaining.toNat ≠ 0 := fun h => hr (BitVec.eq_of_toNat_eq h)
    have hk : s.ctx.chunk = min 64 s.ctx.remaining.toNat := by rw [Ctx.chunk, hmps]
    have hoff : (chunkSent s).ctx.offset.toNat = s.ctx.offset.toNat + s.ctx.chunk := by
      simp only [chunkSent, advance, BitVec.toNat_ofNat]
      omega
    have hrem : (chunkSent s).ctx.remaining.toNat = s.ctx.remaining.toNat - s.ctx.chunk := by
      simp only [chunkSent, advance, BitVec.toNat_ofNat]
      omega
    rw [htotal, hoff, hrem]
    refine ⟨by omega, by omega, fun hz => BitVec.eq_of_toNat_eq ?_⟩
    rw [hrem]
    simp only [chunkSent, advance, Bool.or_eq_true, Bool.and_eq_true, beq_iff_eq] at hz
    obtain hz | ⟨⟨hz, -⟩, -⟩ := hz
    · exact absurd (hzlp hz) hr
    · exact hz
  outRoom := hs.outRoom

theorem inComplete_inv {s t : State} (hs : s.Inv) (h : inComplete s = .next t) : t.Inv := by
  obtain ⟨rfl, hend⟩ | ⟨hc, hr, -, rfl⟩ | ⟨hc, hr, rfl, hroom⟩ := inComplete_next h
  · refine ⟨hs.memory, nofun, hs.streaming, hs.chunk, fun _ => ?_, nofun, hs.outRoom⟩
    by_cases hc : s.cteState = .txInProgress
    · exact hend hc
    · exact hs.context hc
  · obtain ⟨hsum, hpos, -⟩ := hs.transfer hc
    exact ⟨hs.memory, hs.notDecoding, hs.streaming, hs.chunk, fun h => absurd hc h, fun _ => ⟨hsum, hpos, nofun⟩,
      hs.outRoom⟩
  · exact chunkSent_inv hs hc hr hroom

/-! ## Every event, every step -/

/-- Each interrupt event keeps the invariant. -/
theorem exec_usbrst_inv {s t : State} (hs : s.Inv) (h : exec .usbrst s = .next t) : t.Inv := by
  have hroom : (64 : BitVec 19).toNat ≤ 2047 := by decide
  rw [usbrstResult.2] at h
  cases h
  exact ⟨hs.memory, nofun, ⟨rfl, rfl⟩, hs.chunk, fun _ => ⟨rfl, rfl⟩, nofun, hroom, hs.outRoom.2⟩

theorem exec_enumdne_inv {s t : State} (hs : s.Inv) (h : exec .enumdne s = .next t) : t.Inv := by
  rw [enumdneResult.2] at h
  cases h
  exact ⟨hs.memory, hs.notDecoding, hs.streaming, hs.chunk, hs.context, hs.transfer, hs.outRoom⟩

theorem exec_rxflvl_inv {s t : State} (hs : s.Inv) (h : exec .rxflvl s = .next t) : t.Inv := by
  obtain ⟨w, rest, hq, ht⟩ := exec_rxflvl_next h
  exact exec_decodeRxsts_inv _ _ (popped_inv hs _ (by simp [hq])) ht

theorem exec_iepint_inv {s t : State} (hs : s.Inv) (h : exec .iepint s = .next t) : t.Inv := by
  obtain ⟨-, rfl⟩ | ⟨-, u, hu, rfl⟩ := exec_iepint_next h
  · exact ⟨hs.memory, hs.notDecoding, hs.streaming, hs.chunk, hs.context, hs.transfer, hs.outRoom⟩
  · exact streamScanned_inv (inComplete_inv (completionTaken_inv hs) hu)

/-- The events of a `GINTSTS` word are interrupt events. -/
theorem gintstsEvents_elim {P : Instr → Prop} (husbrst : P .usbrst) (hrxflvl : P .rxflvl) (henumdne : P .enumdne)
    (hiepint : P .iepint) {m : RegMap} {g : Word} {i : Instr} (hi : i ∈ gintstsEvents m g) : P i := by
  simp only [gintstsEvents, List.mem_append, List.mem_ite_nil_right, List.mem_singleton] at hi
  obtain ((⟨-, rfl⟩ | ⟨-, rfl⟩) | ⟨-, rfl⟩) | ⟨-, rfl⟩ := hi
  · exact husbrst
  · exact hrxflvl
  · exact henumdne
  · exact hiepint

/-- A property each event of a list keeps is kept by the list. -/
theorem runEvents_keeps_of_mem {P : State → Prop} {is : List Instr}
    (hP : ∀ i ∈ is, ∀ s t, P s → exec i s = .next t → P t) {s t : State} (hs : P s) (h : runEvents is s = .next t) :
    P t := by
  induction is generalizing s with
  | nil =>
    cases h
    exact hs
  | cons i is ih =>
    obtain ⟨u, hu, ht⟩ := andThen_eq_next.mp h
    exact ih (fun j hj => hP j (List.mem_cons_of_mem _ hj)) (hP i List.mem_cons_self s u hs hu) ht

theorem service_inv {s t : State} (hs : s.Inv) (h : service s = .next t) : t.Inv := by
  refine runEvents_keeps_of_mem (fun i hi => ?_) (s := enterService s) ?_ h
  · exact gintstsEvents_elim (P := fun i => ∀ s t, State.Inv s → exec i s = .next t → t.Inv)
      (fun _ _ => exec_usbrst_inv) (fun _ _ => exec_rxflvl_inv) (fun _ _ => exec_enumdne_inv)
      (fun _ _ => exec_iepint_inv) hi
  · exact ⟨hs.memory, hs.notDecoding, hs.streaming, hs.chunk, hs.context, hs.transfer, hs.outRoom⟩

/-- Every environment step keeps the invariant: it reaches neither the transfer nor an enable, and an OUT packet that is
taken closes its endpoint. -/
theorem envStep_inv (e : EnvStep) {s : State} (hs : s.Inv) : (envStep e s).Inv := by
  have hmem := envStep_memory_wf e s hs.memory
  have hkeeps := envStep_envKeeps e s
  have hroom : (envStep e s).outRoomCountable := by
    refine envStep_elim (P := State.outRoomCountable) e s (dropped := hs.outRoom) (answered := fun _ => hs.outRoom)
      (busReset := hs.outRoom) (enumDone := hs.outRoom) (setup := fun _ _ _ => hs.outRoom)
      (setupDone := fun _ _ => hs.outRoom) (inData := fun n _ => ?_) (outAck := fun n _ _ _ _ _ => ?_)
      (other := fun _ _ _ _ _ _ _ => hs.outRoom)
    · cases n <;> exact hs.outRoom
    · cases n
      case ep0 => exact ⟨Nat.zero_le _, hs.outRoom.2⟩
      case stream => exact ⟨hs.outRoom.1, Nat.zero_le _⟩
  have hin := (hkeeps.ep .inp .stream).2.1
  have hout := (hkeeps.ep .out .stream).2.1
  refine ⟨hmem, ?_, ?_, ?_, ?_, ?_, hroom⟩
  · rw [State.notDecoding, hkeeps.cteState]
    exact hs.notDecoding
  · rw [State.streamingAgrees, hkeeps.streamingEnabled]
    exact ⟨hin.trans hs.streaming.1, hout.trans hs.streaming.2⟩
  · rw [hkeeps.ctx]
    exact hs.chunk
  · rw [State.contextEmpty, hkeeps.ctx, hkeeps.cteState]
    exact hs.context
  · simp only [State.transferCoherent, responseTotal, State.store, hkeeps.ctx, hkeeps.cteState, hkeeps.setup,
      hkeeps.fixed.cfg]
    exact hs.transfer

/-- The schedule is no part of the invariant. -/
theorem scheduled_inv {s : State} (hs : s.Inv) (rest : List Move) : State.Inv { s with schedule := rest } :=
  ⟨hs.memory, hs.notDecoding, hs.streaming, hs.chunk, hs.context, hs.transfer, hs.outRoom⟩

/-- Settles O44, from the invariant of each kind of step. -/
theorem everyStepKeepsTheInvariant : Obligations.EveryStepKeepsTheInvariant := by
  intro s t hs h
  obtain ⟨e, rest, -, rfl⟩ | ⟨rest, -, hsv⟩ | ⟨rest, rfl⟩ := step_next h
  · exact envStep_inv e (scheduled_inv hs rest)
  · exact service_inv (scheduled_inv hs rest) hsv
  · exact scheduled_inv hs rest

end Sys2Proof.Machine
end

section
/-! The RX FIFO is made of whole entries (20_memory.md rule R77), and in a state of the invariant only a full TX FIFO 0 stops a
step (rules R72, R81, 40_fifo_access.md rule R131). -/

namespace Sys2Proof.Machine

/-! ## Whole entries -/

/-- Words owed are there, and whole entries follow them. -/
theorem wholeEntries_iff (c : Config) (n : Nat) (q : List Word) :
    wholeEntries c n q = true ↔ n ≤ q.length ∧ wholeEntries c 0 (q.drop n) = true := by
  induction n generalizing q with
  | zero => simp
  | succ n ih =>
    cases q with
    | nil => simp [wholeEntries]
    | cons w q => rw [wholeEntries, ih, List.length_cons, Nat.succ_le_succ_iff, List.drop_succ_cons]

theorem wholeEntries_cons (c : Config) (w : Word) (q : List Word) :
    wholeEntries c 0 (w :: q) = true ↔
      entryData c w ≤ q.length ∧ wholeEntries c 0 (q.drop (entryData c w)) = true := by
  rw [wholeEntries, wholeEntries_iff]

theorem wholeEntries_append (c : Config) {n : Nat} {p q : List Word} (hp : wholeEntries c n p = true)
    (hq : wholeEntries c 0 q = true) : wholeEntries c n (p ++ q) = true := by
  induction n, p using wholeEntries.induct c with
  | case1 => exact hq
  | case2 n => cases hp
  | case3 w p ih => exact ih hp
  | case4 n w p ih => exact ih hp

/-- A status word with its data words behind it is whole. -/
theorem wholeEntries_entry {c : Config} {w : Word} {data : List Word} (h : entryData c w = data.length) :
    wholeEntries c 0 (w :: data) = true := by
  rw [wholeEntries_cons, h, List.drop_length]
  exact ⟨Nat.le_refl _, rfl⟩

/-- How many data words follow a status word of the environment, if its count is not narrowed (rule R103). -/
theorem entryData_rxStatusWord {c : Config} (h : c.regmap.wf = true) (epnum code : BitVec 4) {bcnt : Nat}
    (hb : bcnt ≤ 2047) (x : AnyBits) :
    entryData c (rxStatusWord c.regmap epnum bcnt code x) =
      if code = c.pktstsSetupRx then 2 else if code = c.pktstsSetupDone then 0
      else if code = c.pktstsOutRx then ceil4 bcnt else 0 := by
  have hcount : (BitVec.ofNat 11 bcnt).toNat = bcnt := by
    rw [BitVec.toNat_ofNat, Nat.mod_eq_of_lt (by omega)]
  simp only [entryData, rxStatusWord, RxStatus.ofWord_toWord h, hcount]

/-- The three named codes differ, and the layout keeps its fields apart. -/
theorem Config.wf_codes {c : Config} (h : c.wf = true) :
    c.regmap.wf = true ∧ c.pktstsSetupRx ≠ c.pktstsSetupDone ∧ c.pktstsSetupRx ≠ c.pktstsOutRx ∧
      c.pktstsSetupDone ≠ c.pktstsOutRx := by
  simp only [Config.wf, Bool.and_eq_true, bne_iff_ne] at h
  tauto

/-- Every environment step adds whole entries: the rules that queue one give its code and its count. -/
theorem envStep_rxAligned (e : EnvStep) {s : State} (hc : s.cfg.wf = true) (hroom : s.outRoomCountable)
    (hs : s.rxAligned) : (envStep e s).rxAligned := by
  obtain ⟨hm, h12, h13, h23⟩ := Config.wf_codes hc
  refine envStep_elim (P := State.rxAligned) e s (dropped := hs) (answered := fun _ => hs)
    (busReset := hs) (enumDone := hs) (setup := fun p x _ => ?_) (setupDone := fun x _ => ?_)
    (inData := fun n _ => ?_) (outAck := fun n bytes x _ hlen _ => ?_)
    (other := fun code epnum x h1 h2 h3 _ => ?_)
  · refine wholeEntries_append s.cfg hs (wholeEntries_entry ?_)
    rw [entryData_rxStatusWord hm _ _ (by decide), if_pos rfl]
    rfl
  · refine wholeEntries_append s.cfg hs (wholeEntries_entry ?_)
    rw [entryData_rxStatusWord hm _ _ (by decide), if_neg (Ne.symm h12), if_pos rfl]
    rfl
  · cases n <;> exact hs
  · have hbytes : bytes.length ≤ 2047 := by
      cases n
      · exact hlen.trans hroom.1
      · exact hlen.trans hroom.2
    have hentry : wholeEntries s.cfg 0 (rxStatusWord s.cfg.regmap (s.epNumber n) bytes.length s.cfg.pktstsOutRx x ::
        packLanes x.lanes bytes) = true := by
      refine wholeEntries_entry ?_
      rw [entryData_rxStatusWord hm _ _ hbytes, if_neg (Ne.symm h13), if_neg (Ne.symm h23), if_pos rfl,
        packLanes_length]
    cases n <;> exact wholeEntries_append s.cfg hs hentry
  · refine wholeEntries_append s.cfg hs (wholeEntries_entry ?_)
    rw [entryData_rxStatusWord hm _ _ (by decide), if_neg h1, if_neg h2, if_neg h3]
    rfl

theorem rxAligned_of_eq {s t : State} (hcfg : t.cfg = s.cfg) (hrx : t.rxFifo = s.rxFifo) (h : s.rxAligned) :
    t.rxAligned := by
  rw [State.rxAligned, hcfg, hrx]
  exact h

/-- A receive event takes one whole entry and leaves the others. -/
theorem exec_rxflvl_rxAligned {s t : State} (hs : s.rxAligned) (h : exec .rxflvl s = .next t) : t.rxAligned := by
  obtain ⟨w, rest, hq, -, hrec⟩ := exec_rxflvl_received h
  rw [State.rxAligned, hq, wholeEntries_cons] at hs
  rw [State.rxAligned, hrec.keeps.fixed.cfg, hrec.rxFifo, hq, Nat.add_comm, List.drop_succ_cons]
  exact hs.2

theorem exec_usbrst_rxAligned {s t : State} (hs : s.rxAligned) (h : exec .usbrst s = .next t) : t.rxAligned :=
  have hreset := exec_usbrst_busReset h
  rxAligned_of_eq hreset.keeps.fixed.cfg hreset.rxFifo hs

theorem service_rxAligned {s t : State} (hs : s.rxAligned) (h : service s = .next t) : t.rxAligned := by
  obtain ⟨u, v, hu, hv, ht⟩ := service_next h
  refine rxAligned_of_eq ht.keeps.fixed.cfg ht.rxFifo ?_
  have hu : u.rxAligned := by
    obtain ⟨-, hu⟩ | rfl := hu
    · exact exec_usbrst_rxAligned (s := enterService s) hs hu
    · exact hs
  obtain ⟨-, hv⟩ | rfl := hv
  · exact exec_rxflvl_rxAligned hu hv
  · exact hu

/-- Settles O45, from the entries each kind of step adds or takes. -/
theorem everyStepKeepsEntriesWhole : Obligations.EveryStepKeepsEntriesWhole := by
  intro s t hc hroom hs h
  obtain ⟨e, rest, -, rfl⟩ | ⟨rest, -, hsv⟩ | ⟨rest, rfl⟩ := step_next h
  · exact envStep_rxAligned e (s := { s with schedule := rest }) hc hroom hs
  · exact service_rxAligned (s := { s with schedule := rest }) hs hsv
  · exact hs

/-! ## What can stop -/

/-- The result is a next state or the stop of a full TX FIFO 0. -/
def Progress (r : Result State) : Prop := (∃ t, r = .next t) ∨ ∃ u, r = .fault (.txOverflow .ep0 u)

theorem Progress.next (t : State) : Progress (.next t) := .inl ⟨t, rfl⟩

theorem Progress.andThen {r : Result State} {k : State → Result State} (hr : Progress r)
    (hk : ∀ t, r = .next t → Progress (k t)) : Progress (Machine.andThen r k) := by
  obtain ⟨t, rfl⟩ | ⟨u, rfl⟩ := hr
  · exact hk t rfl
  · exact .inr ⟨u, rfl⟩

theorem exec_descriptorRequest_progress (p : SetupPacket) (src : Src) (s : State) :
    Progress (exec (Instr.descriptorRequest p src) s) := by
  by_cases hroom : firstChunk (min p.length.toNat (s.store src).length) = 0 ∨
      s.txFifo0.length + ceil4 (firstChunk (min p.length.toNat (s.store src).length)) ≤ s.cfg.txFifoDepth0.toNat
  · exact .inl ⟨_, exec_descriptorRequest_room hroom⟩
  · obtain ⟨h0, hfull⟩ := not_or.mp hroom
    obtain ⟨l, hl⟩ := exec_descriptorRequest_full h0 (not_le.mp hfull)
    exact .inr ⟨_, hl⟩

/-- A request can stop only where it pushes. -/
theorem exec_decodeSetup_progress (c : Config) (p : SetupPacket) (s : State) : Progress (exec (decodeSetup c p) s) :=
  decodeSetup_elim (P := fun i => Progress (exec i s)) c p
    (device := exec_descriptorRequest_progress p .dev s) (configuration := exec_descriptorRequest_progress p .cfg s)
    (other := .inl ⟨_, getDescriptorOtherStallsIn.2 s p⟩) (address := .inl ⟨_, setAddressWritesTheAddress.2 s p⟩)
    (setConfiguration := .inl ⟨_, setConfigurationAcknowledges.2 s p⟩)
    (off := .inl ⟨_, setInterfaceOffDisablesStreaming.2 s p⟩) (on := .inl ⟨_, setInterfaceOnEnablesStreaming.2 s p⟩)
    (interfaceOther := .inl ⟨_, setInterfaceOtherAcknowledges.2 s p⟩)
    (unsupported := .inl ⟨_, unsupportedRequestStallsBoth.2 s p⟩)

/-- A receive entry whose data words are queued can stop only in its request. -/
theorem exec_decodeRxsts_progress (c : Config) (w : Word) {s : State} (hlen : entryData c w ≤ s.rxFifo.length) :
    Progress (exec (decodeRxsts c w) s) := by
  refine decodeRxsts_elim (P := fun i n => n ≤ s.rxFifo.length → Progress (exec i s)) c w ?setup
    (fun st _ => .inl ⟨_, (setupDoneResult s).1 st⟩) ?out (fun st _ => .inl ⟨_, (pktstsOtherIgnored s).1 st⟩) hlen
  case setup =>
    intro st hlen
    match hq : s.rxFifo with
    | [] | [_] => simp [hq] at hlen
    | w0 :: w1 :: rest =>
      rw [exec_setupRx_cons st hq]
      exact exec_decodeSetup_progress ..
  case out =>
    intro st hlen
    rw [exec_outRx_eq hlen]
    dsimp only
    split_ifs <;> exact .next _

theorem exec_rxflvl_progress {s : State} (hs : s.rxAligned) (hne : s.rxFifo ≠ []) : Progress (exec .rxflvl s) := by
  match hq : s.rxFifo with
  | [] => exact absurd hq hne
  | w :: rest =>
    rw [State.rxAligned, hq, wholeEntries_cons] at hs
    rw [exec_rxflvl_cons hq]
    exact exec_decodeRxsts_progress _ _ hs.1

/-- In a state of the invariant the next chunk is inside the descriptor. -/
theorem chunk_inside {s : State} (hs : s.Inv) (hc : s.cteState = .txInProgress) :
    s.ctx.offset.toNat + s.ctx.chunk ≤ (s.store s.ctx.src).length := by
  obtain ⟨hsum, -⟩ := hs.transfer hc
  have htotal : responseTotal s s.ctx.src ≤ (s.store s.ctx.src).length := Nat.min_le_right ..
  have hk : s.ctx.chunk ≤ s.ctx.remaining.toNat := Nat.min_le_right ..
  omega

theorem inComplete_progress {s : State} (hs : s.Inv) : Progress (inComplete s) := by
  cases hc : s.cteState with
  | idle => exact .inl ⟨_, inComplete_idle hc⟩
  | statusPending => exact .inl ⟨_, inComplete_statusPending hc⟩
  | setupReceived => exact absurd hc hs.notDecoding
  | txInProgress =>
    by_cases hr : s.ctx.remaining = 0
    · cases hz : s.ctx.zlpPending with
      | true => exact .inl ⟨_, inComplete_zeroLength hc hr hz⟩
      | false => exact .inl ⟨_, inComplete_end hc hr hz⟩
    · have hd := chunk_inside hs hc
      rw [inComplete_chunk hc hr]
      by_cases hroom : s.ctx.chunk = 0 ∨ s.txFifo0.length + ceil4 s.ctx.chunk ≤ s.cfg.txFifoDepth0.toNat
      · exact .inl ⟨_, sendChunk_record s (.inr hd) hroom⟩
      · obtain ⟨hk, hfull⟩ := not_or.mp hroom
        obtain ⟨l, hl⟩ := sendChunk_full hk hd (not_le.mp hfull)
        exact .inr ⟨_, hl⟩

theorem exec_iepint_progress {s : State} (hs : s.Inv) : Progress (exec .iepint s) := by
  cases hx : s.epIn0.xfrc with
  | false => exact .inl ⟨_, iepintWithoutEndpoint0Completion s hx⟩
  | true =>
    rw [exec_iepint_completion hx]
    exact (inComplete_progress (completionTaken_inv hs)).andThen fun _ _ => .next _

/-- An event that is in the list if its bit is set makes progress if it does. -/
theorem runEvents_optional_progress {b : Bool} {i : Instr} {s : State} (h : b = true → Progress (exec i s)) :
    Progress (runEvents (if b then [i] else []) s) := by
  cases b with
  | false => exact .next s
  | true => exact (h rfl).andThen fun _ _ => .next _

/-- Such an event keeps what it keeps when it is in the list. -/
theorem runEvents_optional_keeps {P : State → Prop} {b : Bool} {i : Instr} {s t : State}
    (h : runEvents (if b then [i] else []) s = .next t) (hs : P s) (hi : exec i s = .next t → P t) : P t := by
  obtain ⟨-, h⟩ | ⟨-, rfl⟩ := runEvents_optional h
  · exact hi h
  · exact hs

/-- A service step in a state of the invariant with whole entries makes progress: each event does, in the states the events
before it leave. -/
theorem service_progress {s : State} (hm : s.cfg.regmap.wf = true) (hs : s.Inv) (hal : s.rxAligned) :
    Progress (service s) := by
  have henter : (enterService s).Inv :=
    ⟨hs.memory, hs.notDecoding, hs.streaming, hs.chunk, hs.context, hs.transfer, hs.outRoom⟩
  unfold service gintstsEvents
  rw [gintsts_rxflvl hm, List.append_assoc, List.append_assoc, runEvents_append]
  refine (runEvents_optional_progress fun _ => .inl ⟨_, usbrstResult.2 _⟩).andThen fun u hu => ?_
  obtain ⟨huinv, hual, hurx⟩ : u.Inv ∧ u.rxAligned ∧ u.rxFifo = s.rxFifo :=
    runEvents_optional_keeps (P := fun u => u.Inv ∧ u.rxAligned ∧ u.rxFifo = s.rxFifo) hu ⟨henter, hal, rfl⟩ fun hu =>
      ⟨exec_usbrst_inv henter hu, exec_usbrst_rxAligned (s := enterService s) hal hu, (exec_usbrst_busReset hu).rxFifo⟩
  rw [runEvents_append]
  refine (runEvents_optional_progress fun hb => exec_rxflvl_progress hual ?_).andThen fun v hv => ?_
  · simpa [State.rxflvl, hurx] using hb
  have hvinv : v.Inv := runEvents_optional_keeps hv huinv (exec_rxflvl_inv huinv)
  rw [runEvents_append]
  refine (runEvents_optional_progress fun _ => .inl ⟨_, enumdneResult.2 _⟩).andThen fun w hw => ?_
  have hwinv : w.Inv := runEvents_optional_keeps hw hvinv (exec_enumdne_inv hvinv)
  exact runEvents_optional_progress fun _ => exec_iepint_progress hwinv

/-- Settles O46: an environment move and a dropped one always complete, and a service step makes progress. -/
theorem onlyAFullTxFifoStopsAStep : Obligations.OnlyAFullTxFifoStopsAStep := by
  intro s hc hs hal
  have hserve : ∀ rest, Progress (service { s with schedule := rest }) := fun rest =>
    service_progress (Config.wf_codes hc).1 (scheduled_inv hs rest) hal
  change Progress (step s)
  unfold step
  split
  · split_ifs
    · exact hserve s.schedule
    · exact .next _
  · exact .next _
  · split_ifs
    · exact hserve _
    · exact .next _
  · split_ifs
    · exact hserve s.schedule
    · exact .next _

end Sys2Proof.Machine
end

section
/-! With a quiet host the interrupt line goes low (44_interrupt_dispatcher.md rule R243, 70_reset_and_hazards.md rule R326):
after one service step only receive entries keep it high, and each takes a word from the queue. -/

namespace Sys2Proof.Machine

/-- Only the receive level can hold the line high. -/
def State.Settled (s : State) : Prop := s.usbrst = false ∧ s.enumdne = false ∧ s.iepint = false

/-- The line of such a state with an empty queue is low. -/
theorem State.Settled.irq_low {s : State} (hs : s.Settled) (hq : s.rxFifo = []) : s.irq = false := by
  obtain ⟨hu, he, hi⟩ := hs
  simp [State.irq, State.rxflvl, hu, he, hi, hq]

/-- A service step settles the flags: each is handled, and no event raises one. -/
theorem service_settles {s t : State} (hm : s.cfg.regmap.wf = true) (h : service s = .next t) : t.Settled := by
  refine ⟨service_usbrst_low hm h, service_enumdne_low hm h, ?_⟩
  have hfall := service_fallsByAck h
  have hdep : t.depmsk = s.depmsk := (service_keeps h).fixed.depmsk
  by_cases hi : s.iepint = true
  · obtain ⟨h0, hS⟩ := service_xfrc_low hm h hi
    simp [State.iepint, h0, hS]
  · rw [Bool.not_eq_true, State.iepint, Bool.and_eq_false_iff, Bool.or_eq_false_iff] at hi
    rw [State.iepint, hdep]
    obtain hd | ⟨h0, hS⟩ := hi
    · rw [hd, Bool.false_and]
    · have h0' : t.epIn0.xfrc = false := hfall.xfrc0.low h0
      have hS' : t.epInS.xfrc = false := hfall.xfrcS.low hS
      rw [h0', hS', Bool.or_self, Bool.and_false]

/-- With an empty schedule a step serves the line or idles. -/
theorem step_quiet {s : State} (h : s.schedule = []) : step s = if s.irq then service s else .next s := by
  simp only [step, h]

/-- A machine at rest stays at rest. -/
theorem run_idle {s t : State} (hsch : s.schedule = []) (hirq : s.irq = false) (k : Nat)
    (h : Sys2Proof.core.run k s = .next t) : t.irq = false := by
  have hstep : ∀ u v : State, u = s → step u = .next v → v = s := by
    rintro u v rfl hv
    rw [step_quiet hsch, hirq] at hv
    cases hv
    rfl
  have ht : t = s := run_keeps Sys2Proof.core hstep k s t rfl h
  rw [ht, hirq]

/-- While the line is high and no move is scheduled, a run begins with a service step. -/
theorem run_succ_serves {s t : State} (hsch : s.schedule = []) (hirq : s.irq = true) {k : Nat}
    (h : Sys2Proof.core.run (k + 1) s = .next t) : ∃ u, service s = .next u ∧ Sys2Proof.core.run k u = .next t := by
  have hstep : Sys2Proof.core.step s = service s := (step_quiet hsch).trans (if_pos hirq)
  simp only [Host.Core.run, hstep] at h
  cases hu : service s with
  | next u => exact ⟨u, rfl, by simpa only [hu] using h⟩
  | _ => simp [hu] at h

/-- From a settled state the line is low after as many steps as the queue has words. -/
theorem run_settled (k : Nat) {s t : State} (hm : s.cfg.regmap.wf = true) (hsch : s.schedule = []) (hs : s.Settled)
    (hlen : s.rxFifo.length ≤ k) (h : Sys2Proof.core.run k s = .next t) : t.irq = false := by
  induction k generalizing s with
  | zero =>
    cases h
    exact hs.irq_low (List.eq_nil_of_length_eq_zero (Nat.le_zero.mp hlen))
  | succ k ih =>
    cases hirq : s.irq with
    | false => exact run_idle hsch hirq _ h
    | true =>
      obtain ⟨u, hu, ht⟩ := run_succ_serves hsch hirq h
      have hkeeps := service_keeps hu
      have hrx : s.rxflvl = true := by
        obtain ⟨h1, h2, h3⟩ := hs
        by_contra hrx
        simp [State.irq, h1, h2, h3, hrx] at hirq
      have hless := (service_takes_rx_word hm hu hrx).1
      exact ih (hkeeps.fixed.cfg ▸ hm) (hkeeps.schedule.trans hsch) (service_settles hm hu) (by omega) ht

/-- Settles O53: the first service step settles the flags, the others empty the queue. -/
theorem quietHostLowersTheLine : Obligations.QuietHostLowersTheLine := by
  intro s t hm hsch h
  cases hirq : s.irq with
  | false => exact run_idle hsch hirq _ h
  | true =>
    obtain ⟨u, hu, ht⟩ := run_succ_serves hsch hirq h
    have hkeeps := service_keeps hu
    exact run_settled s.rxFifo.length (hkeeps.fixed.cfg ▸ hm) (hkeeps.schedule.trans hsch) (service_settles hm hu)
      (service_fallsByAck hu).rxFifo ht

end Sys2Proof.Machine
end

section
/-! The packets of a response (42_control_transfer_engine.md rules R177, R178, R185). -/

namespace Sys2Proof.Machine

/-- The packet at position `i`: the bytes from `64 i` on, 64 of them or what is left. -/
def packetAt (bs : List Byte) (i : Nat) : List Byte := (bs.drop (64 * i)).take 64

theorem packetAt_length (bs : List Byte) (i : Nat) : (packetAt bs i).length = min 64 (bs.length - 64 * i) := by
  rw [packetAt, List.length_take, List.length_drop]

/-- The first `n` packets make up the first `64 n` bytes. -/
theorem flatten_packetAt (bs : List Byte) (n : Nat) :
    ((List.range n).map (packetAt bs)).flatten = bs.take (64 * n) := by
  induction n with
  | zero => rfl
  | succ n ih =>
    rw [List.range_succ, List.map_append, List.flatten_append, ih, List.map_singleton, List.flatten_singleton,
      Nat.mul_succ, List.take_add, packetAt]

/-- How many packets a response of `n` bytes has, `cap` asked for. -/
def packetCount (policy : ZlpPolicy) (cap n : Nat) : Nat :=
  match policy with
  | .alwaysOnMultiple => n / 64 + 1
  | .onlyIfShortOfWLength => if 0 < n ∧ n % 64 = 0 ∧ n = cap then n / 64 else n / 64 + 1

theorem responsePackets_eq (policy : ZlpPolicy) (cap : Nat) (bs : List Byte) :
    responsePackets policy cap bs = (List.range (packetCount policy cap bs.length)).map (packetAt bs) := by
  cases policy with
  | alwaysOnMultiple => rfl
  | onlyIfShortOfWLength =>
    unfold responsePackets packetCount
    dsimp only
    split_ifs
    · rw [← List.map_take, List.take_range, Nat.min_eq_left (Nat.le_succ _)]
      rfl
    · rfl

theorem length_le_of_packetCount (policy : ZlpPolicy) (cap n : Nat) : n ≤ 64 * packetCount policy cap n := by
  cases policy <;> simp only [packetCount]
  · omega
  · split_ifs <;> omega

theorem packetCount_pos (policy : ZlpPolicy) (cap n : Nat) : 0 < packetCount policy cap n := by
  cases policy <;> simp only [packetCount]
  · omega
  · split_ifs <;> omega

/-- After packet `i` another follows if bytes are left, or none is but a zero-length packet is wanted (rules R175, R177). -/
theorem succ_lt_packetCount {policy : ZlpPolicy} {cap n i : Nat} (hn : n ≤ cap) (hi : i < packetCount policy cap n) :
    i + 1 < packetCount policy cap n ↔
      64 * (i + 1) < n ∨ 64 * (i + 1) = n ∧ zlpWantedFor policy n cap = true := by
  cases policy <;> simp only [packetCount, zlpWantedFor, decide_eq_true_eq, and_true] at *
  · omega
  · split_ifs at * <;> omega

/-- Settles O59, from the packet at each position. -/
theorem responsePacketsEndShort : Obligations.ResponsePacketsEndShort := by
  intro cap bs
  rw [responsePackets_eq, responsePackets_eq]
  refine ⟨?_, by simp [packetCount], fun q hq => ?_, fun q hq => ?_, ?_⟩
  · rw [flatten_packetAt, List.take_of_length_le (length_le_of_packetCount ..)]
  · rw [packetCount, List.range_succ, List.map_append, List.map_singleton, List.dropLast_concat, List.mem_map] at hq
    obtain ⟨i, hi, rfl⟩ := hq
    rw [List.mem_range] at hi
    rw [packetAt_length]
    omega
  · rw [packetCount, List.range_succ, List.map_append, List.map_singleton, List.getLast?_concat, Option.mem_some] at hq
    rw [← hq, packetAt_length]
    omega
  · rw [flatten_packetAt, List.take_of_length_le (length_le_of_packetCount ..)]

end Sys2Proof.Machine
end

section
/-! A descriptor request answered in full (42_control_transfer_engine.md rule R186): the host and the engine take turns, a
packet each time, until the engine has none left. -/

namespace Sys2Proof.Machine

/-! ## One turn -/

/-- The packet `q` of endpoint 0 waits for its token, nothing else is pending, and a completion reaches the line. -/
structure State.Offers (q : List Byte) (s : State) : Prop where
  usbrst : s.usbrst = false
  enumdne : s.enumdne = false
  rxFifo : s.rxFifo = []
  xfrc0 : s.epIn0.xfrc = false
  xfrcS : s.epInS.xfrc = false
  depmsk : s.depmsk = true
  iepintMask : s.gintmsk.iepint = true
  stall : s.epIn0.ctl.stall = false
  enabled : s.epIn0.ctl.enabled = true
  nak : s.epIn0.ctl.nak = false
  tsiz : s.epIn0.tsiz = ⟨1, BitVec.ofNat 19 q.length⟩
  txFifo0 : s.txFifo0 = packBytes q

/-- The state after the token, in which the engine has taken the completion and no more. -/
def tokenServed (q : List Byte) (rest : List Move) (s : State) : State :=
  { s with
    epIn0 := ⟨{ s.epIn0.ctl with nak := true }, ⟨0, 0⟩, false⟩
    txFifo0 := []
    wire := s.wire ++ [.inData .ep0 q]
    schedule := rest
    accesses := [.read .gintsts, .read (.epint .inp .ep0), .write (.epint .inp .ep0 true)] }

/-- The state after the token (rule R265). -/
def tokenTaken (q : List Byte) (rest : List Move) (s : State) : State :=
  { s with
    epIn0 := ⟨{ s.epIn0.ctl with nak := true }, ⟨0, 0⟩, true⟩
    txFifo0 := []
    wire := s.wire ++ [.inData .ep0 q]
    schedule := rest }

/-- The packet that waits is the one the host takes. -/
theorem envIn_offered {q : List Byte} {s : State} (h : s.Offers q) (hq : q.length ≤ 64) (rest : List Move) :
    envIn .ep0 { s with schedule := rest } = tokenTaken q rest s := by
  have hsize : (s.ep .inp .ep0).tsiz.xfrsiz.toNat = q.length := by
    change s.epIn0.tsiz.xfrsiz.toNat = _
    rw [h.tsiz, BitVec.toNat_ofNat, Nat.mod_eq_of_lt (by omega)]
  have hfifo : s.txFifo .ep0 = packBytes q := h.txFifo0
  have hready : ¬ inNotReady { s with schedule := rest } .ep0 = true := by
    rw [inNotReady_iff]
    change ¬ (s.epIn0.ctl.enabled = false ∨ s.epIn0.ctl.nak = true ∨ s.epIn0.tsiz.pktcnt = 0 ∨
      (s.txFifo .ep0).length < ceil4 (s.ep .inp .ep0).tsiz.xfrsiz.toNat)
    rw [h.enabled, h.nak, h.tsiz, hsize, hfifo, packBytes_length]
    simp
  have hstall : ¬ (({ s with schedule := rest } : State).ep .inp .ep0).ctl.stall = true := by
    change ¬ s.epIn0.ctl.stall = true
    rw [h.stall]
    exact Bool.false_ne_true
  have htaken : inAnswered .ep0 { s with schedule := rest } =
      { tokenTaken q rest s with
        txFifo0 := (s.txFifo .ep0).drop (ceil4 (s.ep .inp .ep0).tsiz.xfrsiz.toNat)
        wire := s.wire ++ [.inData .ep0 (unpackBytes (s.ep .inp .ep0).tsiz.xfrsiz.toNat
          ((s.txFifo .ep0).take (ceil4 (s.ep .inp .ep0).tsiz.xfrsiz.toNat)))] } := rfl
  rw [envIn_eq, if_neg hstall, if_neg hready, htaken, hsize, hfifo, List.drop_of_length_le (by simp),
    List.take_of_length_le (by simp), packBytes, unpackBytes_packLanes]
  rfl

/-- The snapshot after the token has the completion alone. -/
theorem gintstsEvents_tokenTaken {q : List Byte} {s : State} (hm : s.cfg.regmap.wf = true) (h : s.Offers q)
    (rest : List Move) :
    gintstsEvents (tokenTaken q rest s).cfg.regmap (tokenTaken q rest s).gintsts = [.iepint] := by
  have hm : (tokenTaken q rest s).cfg.regmap.wf = true := hm
  have hu : (tokenTaken q rest s).usbrst = false := h.usbrst
  have he : (tokenTaken q rest s).enumdne = false := h.enumdne
  have hr : (tokenTaken q rest s).rxflvl = false := by simp [State.rxflvl, tokenTaken, h.rxFifo]
  have hi : (tokenTaken q rest s).iepint = true := by simp [State.iepint, tokenTaken, h.depmsk]
  unfold gintstsEvents
  rw [gintsts_usbrst hm, gintsts_enumdne hm, gintsts_rxflvl hm, gintsts_iepint hm, hu, he, hr, hi]
  rfl

theorem run_succ {s t : State} (h : step s = .next t) (k : Nat) :
    Sys2Proof.core.run (k + 1) s = Sys2Proof.core.run k t := by
  have hstep : Sys2Proof.core.step s = .next t := h
  simp only [Host.Core.run, hstep]

/-- A token and the service step behind it: the packet goes to the host and the transfer continues. -/
theorem run_turn {q : List Byte} {s v : State} (hm : s.cfg.regmap.wf = true) (h : s.Offers q) (hq : q.length ≤ 64)
    {rest : List Move} (hsch : s.schedule = .env (.inToken .ep0) :: .service :: rest)
    (hv : inComplete (tokenServed q rest s) = .next v) (k : Nat) :
    Sys2Proof.core.run (k + 2) s = Sys2Proof.core.run k (streamScanned v) := by
  have htoken : step s = .next (tokenTaken q (.service :: rest) s) := by
    simp only [step, hsch]
    exact congrArg _ (envIn_offered h hq _)
  have hirq : (tokenTaken q (.service :: rest) s).irq = true := by
    simp [State.irq, State.iepint, tokenTaken, h.depmsk, h.iepintMask]
  have hserve : step (tokenTaken q (.service :: rest) s) = service (tokenTaken q rest s) := by
    have hs : (tokenTaken q (.service :: rest) s).schedule = .service :: rest := rfl
    simp only [step, hs, hirq, if_true]
    rfl
  have htaken : completionTaken (enterService (tokenTaken q rest s)) = tokenServed q rest s := rfl
  have hservice : service (tokenTaken q rest s) = .next (streamScanned v) := by
    unfold service
    rw [gintstsEvents_tokenTaken hm h rest, runEvents_cons, exec_iepint_completion rfl, htaken, hv]
    rfl
  rw [run_succ htoken, run_succ (hserve.trans hservice)]

/-! ## The transfer -/

/-- The context when packet `i` of a response of `n` bytes is armed, `cap` asked for. -/
def contextAt (c : Config) (src : Src) (cap n i : Nat) : Ctx :=
  ⟨src, BitVec.ofNat 16 (min (64 * (i + 1)) n), BitVec.ofNat 16 (n - min (64 * (i + 1)) n), ep0Mps,
    decide (64 * (i + 1) = n) && zlpWantedFor c.zlpPolicy n cap⟩

/-- The bytes of the response to a request of the packet `p`. -/
def responseBytes (c : Config) (src : Src) (p : SetupPacket) : List Byte := (storeOf c src).take p.length.toNat

theorem responseBytes_length (c : Config) (src : Src) (p : SetupPacket) :
    (responseBytes c src p).length = min p.length.toNat (storeOf c src).length := List.length_take

theorem responseBytes_length_lt (c : Config) (src : Src) (p : SetupPacket) :
    (responseBytes c src p).length < 65536 := by
  have := p.length.isLt
  rw [responseBytes_length]
  omega

/-- Packet `i` of the response waits for its token, and the context is at the end of it. -/
structure Responding (c : Config) (src : Src) (p : SetupPacket) (i : Nat) (s : State) : Prop where
  cfg : s.cfg = c
  setup : s.setup = p
  cteState : s.cteState = .txInProgress
  ctx : s.ctx = contextAt c src p.length.toNat (responseBytes c src p).length i
  offers : s.Offers (packetAt (responseBytes c src p) i)

/-- Packet `i` is what is in the descriptor where the packets before it end. -/
theorem packetAt_responseBytes (c : Config) (src : Src) (p : SetupPacket) (i : Nat) :
    packetAt (responseBytes c src p) i =
      ((storeOf c src).drop (64 * i)).take (packetAt (responseBytes c src p) i).length := by
  rw [packetAt_length, responseBytes_length, packetAt, responseBytes, List.drop_take, List.take_take,
    List.take_eq_take_iff, List.length_drop]
  omega

/-- A request in a quiet state offers the first packet. -/
theorem responseStarted_responding (src : Src) (p : SetupPacket) {s : State} (h : s.Quiet) (moves : List Move) :
    Responding s.cfg src p 0 { responseStarted src p s with schedule := moves } := by
  have hlen := responseBytes_length s.cfg src p
  have hfirst : firstChunk (min p.length.toNat (s.store src).length) =
      (packetAt (responseBytes s.cfg src p) 0).length := by
    rw [packetAt_length, hlen]
    rfl
  refine ⟨rfl, rfl, rfl, ?_, h.usbrst, h.enumdne, h.rxFifo, h.xfrc0, h.xfrcS, h.depmsk, h.iepintMask, h.stall, rfl, rfl,
    ?_, ?_⟩
  · rw [hlen]
    simp only [responseStarted, contextAt, firstChunk, State.store, eq_comm]
    rfl
  · simp only [responseStarted, EpRegs.armed, hfirst]
  · simp only [responseStarted, hfirst, h.txFifo0, List.nil_append]
    exact congrArg packBytes (packetAt_responseBytes s.cfg src p 0).symm

/-- With bytes left the chunk is the next packet, and the context moves to its end (rule R175). -/
theorem contextAt_succ {c : Config} {src : Src} {cap n i : Nat} (hn : n < 65536) (hlt : 64 * (i + 1) < n) {s : State}
    (hcfg : s.cfg = c) (hcap : s.setup.length.toNat = cap) (hctx : s.ctx = contextAt c src cap n i) :
    s.ctx.remaining ≠ 0 ∧ s.ctx.offset.toNat = 64 * (i + 1) ∧ s.ctx.chunk = min 64 (n - 64 * (i + 1)) ∧
      (advance s.ctx.chunk s).ctx = contextAt c src cap n (i + 1) := by
  have hend : min (64 * (i + 1)) n = 64 * (i + 1) := by omega
  have hoff : s.ctx.offset.toNat = 64 * (i + 1) := by
    rw [hctx, contextAt, hend, BitVec.toNat_ofNat, Nat.mod_eq_of_lt (by omega)]
  have hrem : s.ctx.remaining.toNat = n - 64 * (i + 1) := by
    rw [hctx, contextAt, hend, BitVec.toNat_ofNat, Nat.mod_eq_of_lt (by omega)]
  have hmps : s.ctx.mps.toNat = 64 := by
    rw [hctx]
    rfl
  have hchunk : s.ctx.chunk = min 64 (n - 64 * (i + 1)) := by rw [Ctx.chunk, hmps, hrem]
  have hzlp : s.ctx.zlpPending = false := by
    rw [hctx, contextAt, decide_eq_false (by omega), Bool.false_and]
  refine ⟨fun h0 => ?_, hoff, hchunk, ?_⟩
  · have hzero : s.ctx.remaining.toNat = 0 := congrArg BitVec.toNat h0
    omega
  · simp only [advance, hchunk, hoff, hrem, hmps, hzlp, zlpWanted_eq, hcfg, hcap, Bool.false_or]
    rw [hctx]
    simp only [contextAt, Ctx.mk.injEq, true_and]
    have hsent : 64 * (i + 1) + min 64 (n - 64 * (i + 1)) = min (64 * (i + 1 + 1)) n := by omega
    refine ⟨congrArg _ hsent, congrArg _ (by omega), ?_⟩
    by_cases h : 64 * (i + 1 + 1) = n
    · have hsent' : 64 * (i + 1) + min 64 (n - 64 * (i + 1)) = n := by omega
      have hleft : n - 64 * (i + 1) - min 64 (n - 64 * (i + 1)) = 0 := by omega
      have hfull : min 64 (n - 64 * (i + 1)) = 64 := by omega
      rw [hsent', hleft, hfull, decide_eq_true h]
      rfl
    · have hno : (n - 64 * (i + 1) - min 64 (n - 64 * (i + 1)) == 0 && min 64 (n - 64 * (i + 1)) == 64) = false := by
        rw [← Bool.not_eq_true, Bool.and_eq_true, beq_iff_eq, beq_iff_eq]
        omega
      rw [hno, decide_eq_false h, Bool.false_and, Bool.false_and]

theorem contextAt_remaining_eq_zero {n i : Nat} (h : n ≤ 64 * (i + 1)) (c : Config) (src : Src) (cap : Nat) :
    (contextAt c src cap n i).remaining = 0 := by
  rw [contextAt, Nat.min_eq_right h, Nat.sub_self]
  rfl

/-- TX FIFO 0 holds a whole packet (00_scope.md rule R10). -/
theorem txFifoDepth0_ge {c : Config} (h : c.wf = true) : 16 ≤ c.txFifoDepth0.toNat := by
  simp only [Config.wf, Bool.and_eq_true, decide_eq_true_eq] at h
  tauto

/-- A turn that continues the response changes only what the next packet needs. -/
theorem inComplete_tokenServed_continues {c : Config} {src : Src} {p : SetupPacket} {i : Nat} {s : State}
    (hc : c.wf = true) (h : Responding c src p i s) (rest : List Move)
    (hmore : 64 * (i + 1) < (responseBytes c src p).length ∨ 64 * (i + 1) = (responseBytes c src p).length ∧
      zlpWantedFor c.zlpPolicy (responseBytes c src p).length p.length.toNat = true) :
    ∃ v, inComplete (tokenServed (packetAt (responseBytes c src p) i) rest s) = .next v ∧
      Responding c src p (i + 1) (streamScanned v) ∧ v.faults = s.faults ∧ v.schedule = rest ∧
      v.wire = s.wire ++ [.inData .ep0 (packetAt (responseBytes c src p) i)] := by
  obtain ⟨hcfg, hsetup, hcte, hctx, hoff⟩ := h
  have hlast := packetAt_length (responseBytes c src p) (i + 1)
  obtain hlt | ⟨hend, hwanted⟩ := hmore
  · generalize hw : tokenServed (packetAt (responseBytes c src p) i) rest s = w
    have hwcfg : w.cfg = c := hw ▸ hcfg
    have hwctx : w.ctx = contextAt c src p.length.toNat (responseBytes c src p).length i := hw ▸ hctx
    have hwcte : w.cteState = .txInProgress := hw ▸ hcte
    have hwsetup : w.setup = p := hw ▸ hsetup
    have hwtx : w.txFifo0 = [] := hw ▸ rfl
    have hwsrc : w.ctx.src = src := congrArg Ctx.src hwctx
    obtain ⟨hrem, hoffset, hchunk, hadvance⟩ :=
      contextAt_succ (responseBytes_length_lt c src p) hlt hwcfg (congrArg (·.length.toNat) hwsetup) hwctx
    have hinside : w.ctx.offset.toNat + w.ctx.chunk ≤ (storeOf w.cfg w.ctx.src).length := by
      have := responseBytes_length c src p
      rw [hoffset, hchunk, hwcfg, hwsrc]
      omega
    have hroom : w.txFifo0.length + ceil4 w.ctx.chunk ≤ w.cfg.txFifoDepth0.toNat := by
      rw [hwtx, hchunk, hwcfg, ceil4]
      have := txFifoDepth0_ge hc
      simp only [List.length_nil]
      omega
    have hsent : inComplete w = .next (chunkSent w) :=
      (inComplete_chunk hwcte hrem).trans (sendChunk_record w (.inr hinside) (.inr hroom))
    refine ⟨chunkSent w, hsent, ⟨hwcfg, hwsetup, hwcte, hadvance, ?_⟩, ?_, ?_, ?_⟩
    · have hlen : w.ctx.chunk = (packetAt (responseBytes c src p) (i + 1)).length := hchunk.trans hlast.symm
      have hpacket : ((storeOf w.cfg w.ctx.src).drop w.ctx.offset.toNat).take w.ctx.chunk =
          packetAt (responseBytes c src p) (i + 1) := by
        rw [packetAt_responseBytes, ← hlen, hoffset, hwcfg, hwsrc]
      have htsiz : (chunkSent w).epIn0.tsiz = ⟨1, BitVec.ofNat 19 (packetAt (responseBytes c src p) (i + 1)).length⟩ := by
        rw [← hlen]
        rfl
      have htx : (chunkSent w).txFifo0 = packBytes (packetAt (responseBytes c src p) (i + 1)) := by
        rw [← hpacket, chunkSent, hwtx, List.nil_append]
      subst hw
      exact ⟨hoff.usbrst, hoff.enumdne, hoff.rxFifo, rfl, rfl, hoff.depmsk, hoff.iepintMask, hoff.stall, rfl, rfl,
        htsiz, htx⟩
    · have hstale : (chunkSent w).faults = w.faults := by
        rw [chunkSent, hwtx, staleFaults, if_neg (by simp)]
      exact hstale.trans (congrArg State.faults hw).symm
    · exact (congrArg State.schedule hw).symm
    · exact (congrArg State.wire hw).symm
  · have hempty : packetAt (responseBytes c src p) (i + 1) = [] :=
      List.eq_nil_of_length_eq_zero (by omega)
    refine ⟨_, inComplete_zeroLength (s := tokenServed _ rest s) hcte ?_ ?_, ⟨hcfg, hsetup, hcte, ?_, ?_⟩, rfl, rfl, rfl⟩
    · exact (congrArg Ctx.remaining hctx).trans (contextAt_remaining_eq_zero hend.ge c src _)
    · exact (congrArg Ctx.zlpPending hctx).trans (by rw [contextAt, decide_eq_true hend, hwanted]; rfl)
    · change ({ s.ctx with zlpPending := false } : Ctx) = _
      rw [hctx, contextAt, contextAt, Nat.min_eq_right hend.ge, Nat.min_eq_right (by omega),
        decide_eq_false (show ¬ 64 * (i + 1 + 1) = (responseBytes c src p).length by omega), Bool.false_and]
    · rw [hempty]
      exact ⟨hoff.usbrst, hoff.enumdne, hoff.rxFifo, rfl, rfl, hoff.depmsk, hoff.iepintMask, hoff.stall, rfl, rfl,
        rfl, rfl⟩

/-- A turn with nothing more to send ends the transfer. -/
theorem inComplete_tokenServed_ends {c : Config} {src : Src} {p : SetupPacket} {i : Nat} {s : State}
    (h : Responding c src p i s) (rest : List Move)
    (hend : (responseBytes c src p).length ≤ 64 * (i + 1))
    (hno : ¬ (64 * (i + 1) = (responseBytes c src p).length ∧
      zlpWantedFor c.zlpPolicy (responseBytes c src p).length p.length.toNat = true)) :
    inComplete (tokenServed (packetAt (responseBytes c src p) i) rest s) =
      .next (transferEnded (tokenServed (packetAt (responseBytes c src p) i) rest s)) := by
  refine inComplete_end (s := tokenServed _ rest s) h.cteState
    ((congrArg Ctx.remaining h.ctx).trans (contextAt_remaining_eq_zero hend c src _))
    ((congrArg Ctx.zlpPending h.ctx).trans ?_)
  rwa [contextAt, ← Bool.not_eq_true, Bool.and_eq_true, decide_eq_true_eq]

/-- A turn of the transfer. -/
theorem Responding.run_turn {c : Config} {src : Src} {p : SetupPacket} {i : Nat} {s v : State} (hc : c.wf = true)
    (h : Responding c src p i s) {rest : List Move} (hsch : s.schedule = .env (.inToken .ep0) :: .service :: rest)
    (hv : inComplete (tokenServed (packetAt (responseBytes c src p) i) rest s) = .next v) (k : Nat) :
    Sys2Proof.core.run (k + 2) s = Sys2Proof.core.run k (streamScanned v) :=
  Machine.run_turn (h.cfg ▸ (Config.wf_codes hc).1) h.offers (by rw [packetAt_length]; omega) hsch hv k

/-- What the host and the engine leave when the packets `taken` have gone out and no more are left. -/
structure ResponseTaken (s u : State) (taken : List (List Byte)) : Prop where
  wire : u.wire = s.wire ++ taken.map (WireEvent.inData .ep0)
  cteState : u.cteState = .idle
  txFifo0 : u.txFifo0 = []
  faults : u.faults = s.faults
  schedule : u.schedule = []
  xfrc : u.epIn0.xfrc = false

/-- From packet `i` on, the packets that are left go out one by one. -/
theorem run_responding {c : Config} {src : Src} {p : SetupPacket} (hc : c.wf = true) (k : Nat) {i : Nat} {s : State}
    (h : Responding c src p i s) (hsch : s.schedule = hostTakes (k + 1))
    (hcount : i + (k + 1) = packetCount c.zlpPolicy p.length.toNat (responseBytes c src p).length) :
    ∃ u, Sys2Proof.core.run (2 * (k + 1)) s = .next u ∧
      ResponseTaken s u ((List.range' i (k + 1)).map (packetAt (responseBytes c src p))) := by
  have hcap : (responseBytes c src p).length ≤ p.length.toNat := List.length_take_le ..
  induction k generalizing i s with
  | zero =>
    have hlast := (succ_lt_packetCount (policy := c.zlpPolicy) (i := i) hcap (by omega)).not.mp (by omega)
    obtain ⟨hbytes, hno⟩ := not_or.mp hlast
    have hv := inComplete_tokenServed_ends h (hostTakes 0) (not_lt.mp hbytes) hno
    exact ⟨_, h.run_turn hc hsch hv 0, rfl, rfl, rfl, rfl, rfl, rfl⟩
  | succ k ih =>
    have hmore := (succ_lt_packetCount (policy := c.zlpPolicy) (i := i) hcap (by omega)).mp (by omega)
    obtain ⟨v, hv, hnext, hfaults, hschedule, hwire⟩ :=
      inComplete_tokenServed_continues hc h (hostTakes (k + 1)) hmore
    obtain ⟨u, hu, htaken⟩ := ih hnext hschedule (by omega)
    refine ⟨u, (h.run_turn hc hsch hv _).trans hu, ?_, htaken.cteState, htaken.txFifo0, htaken.faults.trans hfaults,
      htaken.schedule, htaken.xfrc⟩
    have hscanned : (streamScanned v).wire = s.wire ++ [.inData .ep0 (packetAt (responseBytes c src p) i)] := hwire
    rw [htaken.wire, hscanned, List.range'_succ (s := i), List.map_cons, List.map_cons,
      List.append_assoc, List.singleton_append]

/-- Settles O60: the request offers the first packet of the response, and each turn the next. -/
theorem descriptorRequestIsAnsweredInFull : Obligations.DescriptorRequestIsAnsweredInFull := by
  intro s t p src i hc hq hi h
  dsimp only
  obtain rfl : i = Instr.descriptorRequest p src := by
    obtain ⟨rfl, rfl⟩ | ⟨rfl, rfl⟩ := hi <;> rfl
  obtain ⟨rfl, -⟩ := exec_descriptorRequest_next h
  obtain ⟨k, hk⟩ := Nat.exists_eq_add_of_le'
    (packetCount_pos s.cfg.zlpPolicy p.length.toNat (responseBytes s.cfg src p).length)
  have hstart := responseStarted_responding src p hq (hostTakes (k + 1))
  obtain ⟨u, hu, htaken⟩ := run_responding hc k hstart rfl (by omega)
  have hpackets : responsePackets s.cfg.zlpPolicy p.length.toNat ((s.store src).take p.length.toNat) =
      (List.range' 0 (k + 1)).map (packetAt (responseBytes s.cfg src p)) := by
    rw [responsePackets_eq, ← List.range_eq_range', ← hk]
    rfl
  have hstale : (responseStarted src p s).faults = s.faults := by
    rw [responseStarted, hq.txFifo0, staleFaults, if_neg (by simp)]
  rw [hpackets, List.length_map, List.length_range']
  exact ⟨u, hu, htaken.wire, htaken.cteState, htaken.txFifo0, htaken.faults.trans hstale, htaken.schedule, htaken.xfrc⟩

end Sys2Proof.Machine
end

section
/-! The fault record never shrinks (10_state.md rule R56), neither in a step that answers nor in the state a stop carries. -/

namespace Sys2Proof.Machine

/-- The state a stop carries. -/
def Fault.stopped : Fault → State
  | .rxUnderflow u | .txOverflow _ u | .descOverrun u | .completionWhileDecoding u => u

/-- The faults `f` are recorded in what the result carries. -/
def FaultRecord.KeptBy (f : FaultRecord) : Result State → Prop
  | .next t => f.Within t.faults
  | .fault x => f.Within x.stopped.faults
  | .refused _ => True

namespace FaultRecord.KeptBy

variable {f g : FaultRecord} {r : Result State}

theorem of_kept {t : State} (h : t.faults = f := by rfl) : f.KeptBy (.next t) := by
  subst h
  exact .refl _

theorem of_stopped {x : Fault} (h : f.Within x.stopped.faults) : f.KeptBy (.fault x) := h

theorem mono (hfg : f.Within g) (h : g.KeptBy r) : f.KeptBy r := by
  cases r with
  | next t | fault x => exact hfg.trans h
  | refused q => trivial

/-- What is done after a result keeps what it holds. -/
theorem andThen {k : State → Result State} (h : f.KeptBy r) (hk : ∀ t : State, t.faults.KeptBy (k t)) :
    f.KeptBy (Machine.andThen r k) := by
  cases r with
  | next t => exact .mono h (hk t)
  | fault x => exact h
  | refused q => trivial

end FaultRecord.KeptBy

theorem within_rxUnderflow (f : FaultRecord) : f.Within { f with rxUnderflow := true } := ⟨fun _ => rfl, id, id, id⟩

theorem within_txOverflow0 (f : FaultRecord) : f.Within { f with txOverflow0 := true } := ⟨id, fun _ => rfl, id, id⟩

/-- A packet without room adds its marks. -/
theorem staleFaults_overflow_within (f : FaultRecord) (k : Nat) (q : List Word) :
    f.Within { staleFaults f k q with txOverflow0 := true } :=
  (staleFaults_within f k q).trans (within_txOverflow0 _)

/-! ## Chunks -/

/-- Descriptor reads, the stop past the end too, record no fault. -/
theorem readDesc_stopped_faults {src : Src} {off k : Nat} {s : State} {x : Fault}
    (h : readDesc src off k s = .fault x) : x.stopped.faults = s.faults := by
  induction k generalizing off s with
  | zero => cases h
  | succ k ih =>
    unfold readDesc at h
    split at h
    · cases h
      rfl
    · generalize hr : readDesc src (off + 1) k (logAccess (.desc src off) s) = r at h
      cases r with
      | next q => cases h
      | fault y =>
        cases h
        have hfaults := ih hr
        exact hfaults
      | refused q => cases h

/-- A chunk past the end of the descriptor stops with its mark alone. -/
theorem sendChunk_overrun_faults {s : State} (hk : s.ctx.chunk ≠ 0)
    (h : (s.store s.ctx.src).length < s.ctx.offset.toNat + s.ctx.chunk) :
    ∃ u, sendChunk s = .fault (.descOverrun u) ∧ u.faults = staleFaults s.faults s.ctx.chunk s.txFifo0 := by
  obtain ⟨u, hu⟩ := readDesc_overrun s.ctx.src s.ctx.offset.toNat s.ctx.chunk
    (armIn .ep0 s.ctx.chunk (markStale s.ctx.chunk s)) hk (by simpa using h)
  have hfaults : u.faults = (armIn .ep0 s.ctx.chunk (markStale s.ctx.chunk s)).faults := readDesc_stopped_faults hu
  exact ⟨u, andThen_of_fault (andThen_of_fault hu _) _, by rw [hfaults, armIn_markStale]⟩

/-- A chunk is sent, or runs past the descriptor, or finds no room; each adds its marks. -/
theorem sendChunk_keptBy (s : State) : s.faults.KeptBy (sendChunk s) := by
  by_cases hd : s.ctx.chunk = 0 ∨ s.ctx.offset.toNat + s.ctx.chunk ≤ (s.store s.ctx.src).length
  · by_cases hr : s.ctx.chunk = 0 ∨ s.txFifo0.length + ceil4 s.ctx.chunk ≤ s.cfg.txFifoDepth0.toNat
    · rw [sendChunk_record s hd hr]
      exact staleFaults_within ..
    · obtain ⟨hk, hfull⟩ := not_or.mp hr
      obtain ⟨l, hl⟩ := sendChunk_full hk (hd.resolve_left hk) (not_le.mp hfull)
      rw [hl]
      exact staleFaults_overflow_within ..
  · obtain ⟨hk, hout⟩ := not_or.mp hd
    obtain ⟨u, hu, hfaults⟩ := sendChunk_overrun_faults hk (not_le.mp hout)
    rw [hu]
    exact .of_stopped (hfaults.symm ▸ staleFaults_within ..)

/-! ## Events -/

/-- A descriptor request begins with a chunk, and the other requests record nothing. -/
theorem exec_decodeSetup_keptBy (c : Config) (p : SetupPacket) (s : State) :
    s.faults.KeptBy (exec (decodeSetup c p) s) := by
  have hdescriptor : ∀ src, s.faults.KeptBy (exec (Instr.descriptorRequest p src) s) := fun src => by
    rw [exec_descriptorRequest, startTx_setupReceived]
    exact sendChunk_keptBy (responseOpened src p s)
  refine decodeSetup_elim (P := fun i => s.faults.KeptBy (exec i s)) c p (hdescriptor .dev) (hdescriptor .cfg)
    ?_ ?_ ?_ ?_ ?_ ?_ ?_
  · rw [getDescriptorOtherStallsIn.2]
    exact .of_kept
  · rw [setAddressWritesTheAddress.2]
    exact .of_kept
  · rw [setConfigurationAcknowledges.2]
    exact .of_kept
  · rw [setInterfaceOffDisablesStreaming.2]
    exact .of_kept
  · rw [setInterfaceOnEnablesStreaming.2]
    exact .of_kept
  · rw [setInterfaceOtherAcknowledges.2]
    exact .of_kept
  · rw [unsupportedRequestStallsBoth.2]
    exact .of_kept

/-- A stop on an empty RX FIFO adds its fault. -/
theorem keptBy_of_underflow {s : State} {r : Result State} {u : State} (h : r = .fault (.rxUnderflow u))
    (hu : u.faults = { s.faults with rxUnderflow := true }) : s.faults.KeptBy r := by
  subst h
  exact .of_stopped (hu.symm ▸ within_rxUnderflow s.faults)

theorem exec_decodeRxsts_keptBy (c : Config) (w : Word) (s : State) : s.faults.KeptBy (exec (decodeRxsts c w) s) := by
  refine decodeRxsts_elim (P := fun i _ => s.faults.KeptBy (exec i s)) c w (fun st => ?_) (fun st => ?_) (fun st => ?_)
    (fun st => ?_)
  · by_cases hlen : s.rxFifo.length < 2
    · obtain ⟨u, hu, hfaults, -⟩ := (rxUnderflowStops s).2.1 st hlen
      exact keptBy_of_underflow hu hfaults
    · match hq : s.rxFifo with
      | [] | [_] => simp [hq] at hlen
      | w0 :: w1 :: rest =>
        rw [exec_setupRx_cons st hq]
        exact exec_decodeSetup_keptBy _ _ { s with rxFifo := rest, accesses := s.accesses ++ [.popRx w0, .popRx w1] }
  · rw [(setupDoneResult s).1]
    exact .of_kept
  · by_cases hlen : s.rxFifo.length < ceil4 st.bcnt.toNat
    · obtain ⟨u, hu, hfaults, -⟩ := (rxUnderflowStops s).2.2 st hlen
      exact keptBy_of_underflow hu hfaults
    · rw [exec_outRx_eq (not_lt.mp hlen)]
      simp only [armOut_ep0_eq, armOut_stream_eq]
      split_ifs <;> exact .of_kept
  · rw [(pktstsOtherIgnored s).1]
    exact .of_kept

theorem exec_rxflvl_keptBy (s : State) : s.faults.KeptBy (exec .rxflvl s) := by
  match hq : s.rxFifo with
  | [] =>
    obtain ⟨u, hu, hfaults⟩ := (rxUnderflowStops s).1 hq
    exact keptBy_of_underflow hu hfaults
  | w :: rest =>
    rw [exec_rxflvl_cons hq]
    exact exec_decodeRxsts_keptBy _ _ { s with rxFifo := rest, accesses := s.accesses ++ [.popRx w] }

theorem inComplete_keptBy (s : State) : s.faults.KeptBy (inComplete s) := by
  cases hc : s.cteState with
  | idle =>
    rw [inComplete_idle hc]
    exact .of_kept
  | statusPending =>
    rw [inComplete_statusPending hc]
    exact .of_kept
  | setupReceived =>
    rw [inComplete_setupReceived hc]
    exact .of_kept
  | txInProgress =>
    by_cases hr : s.ctx.remaining = 0
    · cases hz : s.ctx.zlpPending with
      | true =>
        rw [inComplete_zeroLength hc hr hz]
        exact .of_kept
      | false =>
        rw [inComplete_end hc hr hz]
        exact .of_kept
    · rw [inComplete_chunk hc hr]
      exact sendChunk_keptBy s

theorem exec_iepint_keptBy (s : State) : s.faults.KeptBy (exec .iepint s) := by
  cases hx : s.epIn0.xfrc with
  | false =>
    rw [iepintWithoutEndpoint0Completion s hx]
    exact .of_kept
  | true =>
    rw [exec_iepint_completion hx]
    exact (inComplete_keptBy (completionTaken s)).andThen fun t => .of_kept

/-! ## Steps -/

theorem runEvents_keptBy {is : List Instr} (h : ∀ i ∈ is, ∀ s : State, s.faults.KeptBy (exec i s)) (s : State) :
    s.faults.KeptBy (runEvents is s) := by
  induction is generalizing s with
  | nil => exact .of_kept
  | cons i is ih =>
    exact (h i List.mem_cons_self s).andThen (ih fun j hj => h j (List.mem_cons_of_mem _ hj))

theorem service_keptBy (s : State) : s.faults.KeptBy (service s) := by
  refine runEvents_keptBy (fun i hi => ?_) (enterService s)
  refine gintstsEvents_elim (P := fun i => ∀ s : State, s.faults.KeptBy (exec i s)) (fun s => ?_) exec_rxflvl_keptBy
    (fun s => ?_) exec_iepint_keptBy hi
  · rw [usbrstResult.2]
    exact .of_kept
  · rw [enumdneResult.2]
    exact .of_kept

theorem step_keptBy (s : State) : s.faults.KeptBy (step s) := by
  unfold step
  split
  · split_ifs
    · exact service_keptBy s
    · exact .of_kept
  · next e rest hs =>
    exact .of_kept (envStep_envKeeps e _).faults
  · next rest hs =>
    split_ifs
    · exact service_keptBy { s with schedule := rest }
    · exact .of_kept
  · split_ifs
    · exact service_keptBy s
    · exact .of_kept

/-- Settles O49: a step and its stops keep the record. -/
theorem faultRecordNeverShrinks : Obligations.FaultRecordNeverShrinks := by
  refine ⟨fun c => rfl, fun s u h => ?_⟩
  have hkept := step_keptBy s
  obtain h | h | ⟨n, h⟩ | h | h := h <;> rw [h] at hkept <;> exact hkept

end Sys2Proof.Machine
end

section
/-! What no step looks at: `GCTL` (10_state.md rule R36), the reserved bits of `GINTSTS` (rule R34) and `REG_ADDR`
(20_memory.md rule R82). A step commutes with a change of these three, its stops included; each operation does. -/

namespace Sys2Proof.Machine

/-- The state with the three changed, each by a function of its own. -/
def State.relabel (φ ρ : Word → Word) (α : List (PortName × Nat) → List (PortName × Nat)) (s : State) : State :=
  { s with
    gctl := φ s.gctl
    gintReserved := ρ s.gintReserved
    cfg := { s.cfg with regAddr := α s.cfg.regAddr } }

/-- The same, with the latch and the context changed too: what the environment does not look at. -/
def State.unseen (φ ρ : Word → Word) (α : List (PortName × Nat) → List (PortName × Nat))
    (σ : SetupPacket → SetupPacket) (κ : Ctx → Ctx) (s : State) : State :=
  { s.relabel φ ρ α with setup := σ s.setup, ctx := κ s.ctx }

/-- A stop with the state it carries changed. -/
def Fault.map (f : State → State) : Fault → Fault
  | .rxUnderflow u => .rxUnderflow (f u)
  | .txOverflow n u => .txOverflow n (f u)
  | .descOverrun u => .descOverrun (f u)
  | .completionWhileDecoding u => .completionWhileDecoding (f u)

/-- A result with its answer changed by `k`, the state of a stop by `f`. -/
def mapResult {β γ : Type} (f : State → State) (k : β → γ) : Result β → Result γ
  | .next b => .next (k b)
  | .fault x => .fault (x.map f)
  | .refused q => .refused q

/-- A result that answers a state, with the three changed in it. -/
abbrev relabelled (φ ρ : Word → Word) (α : List (PortName × Nat) → List (PortName × Nat)) (r : Result State) :
    Result State := mapResult (State.relabel φ ρ α) (State.relabel φ ρ α) r

/-- A sequence commutes with the change if both parts do. -/
theorem andThen_mapResult {β β' γ γ' : Type} {f : State → State} {j : β → β'} {k : γ → γ'} {r : Result β}
    {h : β → Result γ} {h' : β' → Result γ'} (hh : ∀ b, h' (j b) = mapResult f k (h b)) :
    andThen (mapResult f j r) h' = mapResult f k (andThen r h) := by
  cases r with
  | next b => exact hh b
  | fault x => rfl
  | refused q => rfl

section
variable (φ ρ : Word → Word) (α : List (PortName × Nat) → List (PortName × Nat))

/-! ## Operations -/

theorem popRx_relabel (s : State) :
    popRx (s.relabel φ ρ α) = mapResult (State.relabel φ ρ α) (Prod.map id (State.relabel φ ρ α)) (popRx s) := by
  have hq : (s.relabel φ ρ α).rxFifo = s.rxFifo := rfl
  unfold popRx
  rw [hq]
  cases s.rxFifo <;> rfl

theorem popWords_relabel (k : Nat) (s : State) :
    popWords k (s.relabel φ ρ α) = mapResult (State.relabel φ ρ α) (Prod.map id (State.relabel φ ρ α)) (popWords k s) := by
  induction k generalizing s with
  | zero => rfl
  | succ k ih =>
    rw [popWords, popRx_relabel]
    refine andThen_mapResult fun r => ?_
    rw [Prod.map_snd, ih]
    exact andThen_mapResult fun q => rfl

theorem popBytes_relabel (n : Nat) (s : State) :
    popBytes n (s.relabel φ ρ α) = mapResult (State.relabel φ ρ α) (Prod.map id (State.relabel φ ρ α)) (popBytes n s) := by
  rw [popBytes, popWords_relabel]
  exact andThen_mapResult fun r => rfl

theorem drain_relabel (n : Nat) (s : State) :
    drain n (s.relabel φ ρ α) = relabelled φ ρ α (drain n s) := by
  rw [drain, popWords_relabel]
  exact andThen_mapResult fun r => rfl

theorem pushTx_relabel (n : Ep) (w : Word) (s : State) :
    pushTx n w (s.relabel φ ρ α) = relabelled φ ρ α (pushTx n w s) := by
  have hfull : (s.relabel φ ρ α).txDepth n ≤ ((s.relabel φ ρ α).txFifo n).length ↔
      s.txDepth n ≤ (s.txFifo n).length := by cases n <;> exact Iff.rfl
  unfold pushTx
  simp only [hfull]
  cases n <;> split_ifs <;> rfl

theorem pushWords_relabel (n : Ep) (ws : List Word) (s : State) :
    pushWords n ws (s.relabel φ ρ α) = relabelled φ ρ α (pushWords n ws s) := by
  induction ws generalizing s with
  | nil => rfl
  | cons w ws ih =>
    rw [pushWords, pushTx_relabel]
    exact andThen_mapResult ih

theorem store_relabel (src : Src) (s : State) : (s.relabel φ ρ α).store src = s.store src := by
  cases src <;> rfl

theorem readDesc_relabel (src : Src) (off k : Nat) (s : State) :
    readDesc src off k (s.relabel φ ρ α) =
      mapResult (State.relabel φ ρ α) (Prod.map id (State.relabel φ ρ α)) (readDesc src off k s) := by
  induction k generalizing off s with
  | zero => rfl
  | succ k ih =>
    unfold readDesc
    rw [store_relabel]
    cases (s.store src)[off]? with
    | none => rfl
    | some b =>
      have hih := ih (off + 1) (logAccess (.desc src off) s)
      change andThen (readDesc src (off + 1) k (State.relabel φ ρ α (logAccess (.desc src off) s))) _ = _
      rw [hih]
      exact andThen_mapResult fun q => rfl

theorem sendInPacket_relabel (k : Nat) (src : Src) (off : Nat) (s : State) :
    sendInPacket k src off (s.relabel φ ρ α) =
      relabelled φ ρ α (sendInPacket k src off s) := by
  have harm : armIn .ep0 k (markStale k (s.relabel φ ρ α)) = (armIn .ep0 k (markStale k s)).relabel φ ρ α := by
    rw [armIn_markStale, armIn_markStale]
    rfl
  rw [sendInPacket, harm, readDesc_relabel]
  exact andThen_mapResult fun r => pushWords_relabel φ ρ α ..

theorem sendChunk_relabel (s : State) :
    sendChunk (s.relabel φ ρ α) = relabelled φ ρ α (sendChunk s) := by
  have hsend := sendInPacket_relabel φ ρ α s.ctx.chunk s.ctx.src s.ctx.offset.toNat s
  refine Eq.trans (congrArg (andThen · _) hsend) (andThen_mapResult fun t => ?_)
  rfl

/-! ## Events -/

/-- The events whose result is one record update commute. -/
theorem exec_decodeSetup_relabel (c : Config) (p : SetupPacket) (s : State) :
    exec (decodeSetup c p) (s.relabel φ ρ α) =
      relabelled φ ρ α (exec (decodeSetup c p) s) := by
  have hdescriptor : ∀ src, exec (Instr.descriptorRequest p src) (s.relabel φ ρ α) =
      relabelled φ ρ α (exec (Instr.descriptorRequest p src) s) := fun src => by
    have hopened : responseOpened src p (s.relabel φ ρ α) = (responseOpened src p s).relabel φ ρ α := by
      cases src <;> rfl
    rw [exec_descriptorRequest, exec_descriptorRequest, startTx_setupReceived, startTx_setupReceived, hopened,
      sendChunk_relabel]
  refine decodeSetup_elim (P := fun i => exec i (s.relabel φ ρ α) =
    relabelled φ ρ α (exec i s)) c p (hdescriptor .dev) (hdescriptor .cfg)
    ?_ ?_ ?_ ?_ ?_ ?_ ?_
  · rw [getDescriptorOtherStallsIn.2, getDescriptorOtherStallsIn.2]
    rfl
  · rw [setAddressWritesTheAddress.2, setAddressWritesTheAddress.2]
    rfl
  · rw [setConfigurationAcknowledges.2, setConfigurationAcknowledges.2]
    rfl
  · rw [setInterfaceOffDisablesStreaming.2, setInterfaceOffDisablesStreaming.2]
    rfl
  · rw [setInterfaceOnEnablesStreaming.2, setInterfaceOnEnablesStreaming.2]
    rfl
  · rw [setInterfaceOtherAcknowledges.2, setInterfaceOtherAcknowledges.2]
    rfl
  · rw [unsupportedRequestStallsBoth.2, unsupportedRequestStallsBoth.2]
    rfl

theorem dispatchSetup_relabel (p : SetupPacket) (s : State) :
    dispatchSetup p (s.relabel φ ρ α) =
      relabelled φ ρ α (dispatchSetup p s) := by
  have hdecode : decodeSetup (s.relabel φ ρ α).cfg p = decodeSetup s.cfg p := rfl
  rw [dispatchSetup_eq_exec, dispatchSetup_eq_exec, hdecode, exec_decodeSetup_relabel]

theorem execOutRx_relabel (st : RxStatus) (s : State) :
    execOutRx st (s.relabel φ ρ α) = relabelled φ ρ α (execOutRx st s) := by
  unfold execOutRx
  rw [drain_relabel]
  refine andThen_mapResult fun t => ?_
  have hcond : (st.epnum = (t.relabel φ ρ α).cfg.epStream ∧ (t.relabel φ ρ α).streamingEnabled = true) =
      (st.epnum = t.cfg.epStream ∧ t.streamingEnabled = true) := rfl
  simp only [hcond, armOut_ep0_eq, armOut_stream_eq]
  split_ifs <;> rfl

theorem dispatchReceive_relabel (st : RxStatus) (s : State) :
    dispatchReceive st (s.relabel φ ρ α) =
      relabelled φ ρ α (dispatchReceive st s) := by
  have hcodes : (s.relabel φ ρ α).cfg.pktstsSetupRx = s.cfg.pktstsSetupRx ∧
      (s.relabel φ ρ α).cfg.pktstsSetupDone = s.cfg.pktstsSetupDone ∧
      (s.relabel φ ρ α).cfg.pktstsOutRx = s.cfg.pktstsOutRx := ⟨rfl, rfl, rfl⟩
  obtain ⟨h1, h2, h3⟩ := hcodes
  unfold dispatchReceive
  rw [h1, h2, h3]
  split_ifs
  · rw [execSetupRx, popBytes_relabel]
    exact andThen_mapResult fun r => dispatchSetup_relabel φ ρ α ..
  · simp only [execSetupDone, armOut_ep0_eq]
    rfl
  · exact execOutRx_relabel φ ρ α st s
  · rfl

theorem exec_rxflvl_relabel (s : State) :
    exec .rxflvl (s.relabel φ ρ α) = relabelled φ ρ α (exec .rxflvl s) := by
  rw [exec, execRxflvl, popRx_relabel]
  exact andThen_mapResult fun r => dispatchReceive_relabel φ ρ α ..

theorem inComplete_relabel (s : State) :
    inComplete (s.relabel φ ρ α) = relabelled φ ρ α (inComplete s) := by
  have hkept : (s.relabel φ ρ α).cteState = s.cteState ∧ (s.relabel φ ρ α).ctx = s.ctx := ⟨rfl, rfl⟩
  obtain ⟨hstate, hctx⟩ := hkept
  cases hc : s.cteState with
  | idle =>
    rw [inComplete_idle hc, inComplete_idle (hstate.trans hc)]
    rfl
  | statusPending =>
    rw [inComplete_statusPending hc, inComplete_statusPending (hstate.trans hc)]
    rfl
  | setupReceived =>
    rw [inComplete_setupReceived hc, inComplete_setupReceived (hstate.trans hc)]
    rfl
  | txInProgress =>
    by_cases hr : s.ctx.remaining = 0
    · cases hz : s.ctx.zlpPending with
      | true =>
        rw [inComplete_zeroLength hc hr hz, inComplete_zeroLength (hstate.trans hc) (hctx ▸ hr) (hctx ▸ hz)]
        rfl
      | false =>
        rw [inComplete_end hc hr hz, inComplete_end (hstate.trans hc) (hctx ▸ hr) (hctx ▸ hz)]
        rfl
    · rw [inComplete_chunk hc hr, inComplete_chunk (hstate.trans hc) (hctx ▸ hr), sendChunk_relabel]

theorem exec_iepint_relabel (s : State) :
    exec .iepint (s.relabel φ ρ α) = relabelled φ ρ α (exec .iepint s) := by
  have hflag : (s.relabel φ ρ α).epIn0 = s.epIn0 := rfl
  cases hx : s.epIn0.xfrc with
  | false =>
    rw [iepintWithoutEndpoint0Completion s hx, iepintWithoutEndpoint0Completion _ (hflag ▸ hx)]
    rfl
  | true =>
    have htaken : completionTaken (s.relabel φ ρ α) = (completionTaken s).relabel φ ρ α := rfl
    rw [exec_iepint_completion hx, exec_iepint_completion (hflag ▸ hx), htaken, inComplete_relabel]
    exact andThen_mapResult fun t => rfl

/-! ## Steps -/

theorem runEvents_relabel {is : List Instr}
    (h : ∀ i ∈ is, ∀ s : State,
      exec i (s.relabel φ ρ α) = relabelled φ ρ α (exec i s)) (s : State) :
    runEvents is (s.relabel φ ρ α) = relabelled φ ρ α (runEvents is s) := by
  induction is generalizing s with
  | nil => rfl
  | cons i is ih =>
    rw [runEvents_cons, h i List.mem_cons_self]
    exact andThen_mapResult (ih fun j hj => h j (List.mem_cons_of_mem _ hj))

/-- The snapshot's events are those of its four bits, the reserved ones left out. -/
theorem gintstsEvents_relabel (s : State) :
    gintstsEvents (s.relabel φ ρ α).cfg.regmap (s.relabel φ ρ α).gintsts =
      gintstsEvents s.cfg.regmap s.gintsts := by
  have hmask : (s.relabel φ ρ α).gintsts &&& s.cfg.regmap.gintMask = s.gintsts &&& s.cfg.regmap.gintMask := by
    have hreserved : ∀ a r m : Word, (a ||| (r &&& ~~~m)) &&& m = a &&& m := by
      intro a r m
      ext i hi
      simp only [BitVec.getElem_and, BitVec.getElem_or, BitVec.getElem_not]
      grind
    exact (hreserved _ _ _).trans (hreserved _ _ _).symm
  rw [← gintstsEvents_and_gintMask s.cfg.regmap s.gintsts, ← hmask, gintstsEvents_and_gintMask]
  rfl

theorem service_relabel (s : State) :
    service (s.relabel φ ρ α) = relabelled φ ρ α (service s) := by
  unfold service
  rw [gintstsEvents_relabel]
  refine runEvents_relabel φ ρ α (fun i hi => ?_) (enterService s)
  refine gintstsEvents_elim (P := fun i => ∀ s : State,
    exec i (s.relabel φ ρ α) = relabelled φ ρ α (exec i s))
    (fun s => ?_) (exec_rxflvl_relabel φ ρ α) (fun s => ?_) (exec_iepint_relabel φ ρ α) hi
  · rw [usbrstResult.2, usbrstResult.2]
    rfl
  · rw [enumdneResult.2, enumdneResult.2]
    rfl

/-- The environment looks at none of the three, nor at the latch and the context. -/
theorem envStep_unseen (σ : SetupPacket → SetupPacket) (κ : Ctx → Ctx) (e : EnvStep) (s : State) :
    envStep e (s.unseen φ ρ α σ κ) = (envStep e s).unseen φ ρ α σ κ := by
  cases e with
  | busReset | enumDone => rfl
  | setup p x =>
    have hcond : ((s.unseen φ ρ α σ κ).epOut0.ctl.enabled && rxRoom (s.unseen φ ρ α σ κ) 3) =
        (s.epOut0.ctl.enabled && rxRoom s 3) := rfl
    simp only [envStep, envSetup, hcond]
    split_ifs <;> rfl
  | setupDone x =>
    have hcond : ((s.unseen φ ρ α σ κ).setupDoneOwed && rxRoom (s.unseen φ ρ α σ κ) 1) =
        (s.setupDoneOwed && rxRoom s 1) := rfl
    simp only [envStep, envSetupDone, hcond]
    split_ifs <;> rfl
  | inToken n =>
    have hcond : inNotReady (s.unseen φ ρ α σ κ) n = inNotReady s n := by cases n <;> rfl
    have hep : (s.unseen φ ρ α σ κ).ep .inp n = s.ep .inp n := by cases n <;> rfl
    simp only [envStep, envIn_eq, hcond, hep]
    cases n <;> split_ifs <;> rfl
  | outPacket n bytes x =>
    have hcond : outNotReady (s.unseen φ ρ α σ κ) n bytes.length = outNotReady s n bytes.length := by cases n <;> rfl
    have hep : (s.unseen φ ρ α σ κ).ep .out n = s.ep .out n := by cases n <;> rfl
    simp only [envStep, envOut_eq, hcond, hep]
    cases n <;> split_ifs <;> rfl
  | other code epnum x =>
    have hcond : (code != (s.unseen φ ρ α σ κ).cfg.pktstsSetupRx && code != (s.unseen φ ρ α σ κ).cfg.pktstsSetupDone &&
        code != (s.unseen φ ρ α σ κ).cfg.pktstsOutRx && rxRoom (s.unseen φ ρ α σ κ) 1) =
        (code != s.cfg.pktstsSetupRx && code != s.cfg.pktstsSetupDone && code != s.cfg.pktstsOutRx && rxRoom s 1) := rfl
    simp only [envStep, envOther, hcond]
    split_ifs <;> rfl

theorem envStep_relabel (e : EnvStep) (s : State) : envStep e (s.relabel φ ρ α) = (envStep e s).relabel φ ρ α :=
  envStep_unseen φ ρ α id id e s

theorem step_relabel (s : State) :
    step (s.relabel φ ρ α) = relabelled φ ρ α (step s) := by
  have hkept : (s.relabel φ ρ α).schedule = s.schedule ∧ (s.relabel φ ρ α).irq = s.irq := ⟨rfl, rfl⟩
  obtain ⟨hschedule, hirq⟩ := hkept
  unfold step
  rw [hschedule, hirq]
  cases s.schedule with
  | nil => split_ifs <;> [exact service_relabel φ ρ α s; rfl]
  | cons m rest =>
    cases m with
    | env e => exact congrArg Host.Outcome.next (envStep_relabel φ ρ α e { s with schedule := rest })
    | service => split_ifs <;> [exact service_relabel φ ρ α { s with schedule := rest }; rfl]
    | serviceAll => split_ifs <;> [exact service_relabel φ ρ α s; rfl]

end

/-! ## The obligations -/

/-- Settles O56: the reserved bits changed alone. -/
theorem reservedStatusBitsChangeNothing : Obligations.ReservedStatusBitsChangeNothing := by
  intro s t g h
  have hstep := step_relabel id (fun _ => g) id s
  rw [h] at hstep
  exact hstep

/-- Settles O57: `REG_ADDR` changed alone. -/
theorem registerAddressesChangeNothing : Obligations.RegisterAddressesChangeNothing := by
  intro s a
  have hstep := step_relabel id id (fun _ => a) s
  refine ⟨fun t h => ?_, fun u h => ?_, fun n u h => ?_, fun u h => ?_, fun u h => ?_⟩ <;>
    rw [h] at hstep <;> exact hstep

end Sys2Proof.Machine
end

section
/-! What power-on leaves unspecified is not read before it is written (70_reset_and_hazards.md rule R321): outside a transfer
the latch, `ctx.src` and `ctx.offset` make no difference, and a request that begins a transfer writes all three. -/

namespace Sys2Proof.Machine

/-- The state with another latch and another source and position in the context. -/
def State.withLatch (p : SetupPacket) (src : Src) (off : Half) (s : State) : State :=
  { s with setup := p, ctx := { s.ctx with src := src, offset := off } }

/-- The two states agree, but outside a transfer for the latch, the source and the position. -/
def State.SameButLatch (s s' : State) : Prop :=
  s' = s ∨ s.cteState ≠ .txInProgress ∧ ∃ p src off, s' = s.withLatch p src off

theorem State.SameButLatch.refl (s : State) : s.SameButLatch s := .inl rfl

theorem State.SameButLatch.withLatch {s : State} (h : s.cteState ≠ .txInProgress) (p : SetupPacket) (src : Src)
    (off : Half) : s.SameButLatch (s.withLatch p src off) := .inr ⟨h, p, src, off, rfl⟩

/-- If the one result answers, so does the other, with a state that is the same but for the latch. -/
def Result.Follows (r r' : Result State) : Prop := ∀ t, r = .next t → ∃ t', r' = .next t' ∧ t.SameButLatch t'

namespace Result.Follows

theorem refl (r : Result State) : Result.Follows r r := fun t h => ⟨t, h, .refl t⟩

theorem next {t t' : State} (h : t.SameButLatch t') : Result.Follows (.next t) (.next t') := by
  rintro u ⟨⟩
  exact ⟨t', rfl, h⟩

theorem andThen {r r' : Result State} {k : State → Result State} (h : Result.Follows r r')
    (hk : ∀ t t' : State, t.SameButLatch t' → Result.Follows (k t) (k t')) :
    Result.Follows (Machine.andThen r k) (Machine.andThen r' k) := by
  intro u hu
  obtain ⟨t, ht, hu⟩ := andThen_eq_next.mp hu
  obtain ⟨t', ht', hsame⟩ := h t ht
  obtain ⟨u', hu', hsame⟩ := hk t t' hsame u hu
  exact ⟨u', by rw [ht', andThen_next, hu'], hsame⟩

end Result.Follows

/-- An answer that leaves no transfer, the same but for the latch. -/
theorem Result.Follows.withLatch {t t' : State} (h : t.cteState ≠ .txInProgress) (p : SetupPacket) (src : Src)
    (off : Half) (h' : t' = t.withLatch p src off := by rfl) : Result.Follows (.next t) (.next t') :=
  .next (.inr ⟨h, p, src, off, h'⟩)

/-! ## Events outside a transfer -/

section
variable {s : State} (p : SetupPacket) (src : Src) (off : Half)

/-- A descriptor request writes all three, the other requests the latch, and those leave no transfer. -/
theorem exec_decodeSetup_withLatch (c : Config) (q : SetupPacket) :
    Result.Follows (exec (decodeSetup c q) s) (exec (decodeSetup c q) (s.withLatch p src off)) := by
  have hdescriptor : ∀ x, Result.Follows (exec (Instr.descriptorRequest q x) s)
      (exec (Instr.descriptorRequest q x) (s.withLatch p src off)) := fun x => by
    have hopened : responseOpened x q (s.withLatch p src off) = responseOpened x q s := rfl
    rw [exec_descriptorRequest, exec_descriptorRequest, startTx_setupReceived, startTx_setupReceived, hopened]
    exact .refl _
  refine decodeSetup_elim (P := fun i => Result.Follows (exec i s) (exec i (s.withLatch p src off))) c q
    (hdescriptor .dev) (hdescriptor .cfg) ?_ ?_ ?_ ?_ ?_ ?_ ?_
  · rw [getDescriptorOtherStallsIn.2, getDescriptorOtherStallsIn.2]
    exact .withLatch nofun q src off
  · rw [setAddressWritesTheAddress.2, setAddressWritesTheAddress.2]
    exact .withLatch nofun q src off
  · rw [setConfigurationAcknowledges.2, setConfigurationAcknowledges.2]
    exact .withLatch nofun q src off
  · rw [setInterfaceOffDisablesStreaming.2, setInterfaceOffDisablesStreaming.2]
    exact .withLatch nofun q src off
  · rw [setInterfaceOnEnablesStreaming.2, setInterfaceOnEnablesStreaming.2]
    exact .withLatch nofun q src off
  · rw [setInterfaceOtherAcknowledges.2, setInterfaceOtherAcknowledges.2]
    exact .withLatch nofun q src off
  · rw [unsupportedRequestStallsBoth.2, unsupportedRequestStallsBoth.2]
    exact .withLatch nofun q src off

variable (hs : s.cteState ≠ .txInProgress)
include hs

theorem exec_outRx_withLatch (st : RxStatus) :
    Result.Follows (exec (.outRx st) s) (exec (.outRx st) (s.withLatch p src off)) := by
  intro t ht
  have hlen := (exec_outRx_received ht).length
  have hsame : exec (.outRx st) (s.withLatch p src off) = .next (t.withLatch p src off) := by
    rw [exec_outRx_eq hlen] at ht
    rw [exec_outRx_eq (s := s.withLatch p src off) hlen]
    simp only [armOut_ep0_eq, armOut_stream_eq] at ht ⊢
    have hcond : (st.epnum = (s.withLatch p src off).cfg.epStream ∧ (s.withLatch p src off).streamingEnabled = true) =
      (st.epnum = s.cfg.epStream ∧ s.streamingEnabled = true) := rfl
    simp only [hcond]
    split_ifs at ht ⊢ <;> cases ht <;> rfl
  have hstate := (exec_keeps_transfer (.inr (.inr (.inl rfl))) ht).1
  exact ⟨_, hsame, .withLatch (hstate ▸ hs) p src off⟩

theorem exec_decodeRxsts_withLatch (c : Config) (w : Word) :
    Result.Follows (exec (decodeRxsts c w) s) (exec (decodeRxsts c w) (s.withLatch p src off)) := by
  refine decodeRxsts_elim
    (P := fun i _ => Result.Follows (exec i s) (exec i (s.withLatch p src off))) c w (fun st => ?_) (fun st => ?_)
    (exec_outRx_withLatch p src off hs) (fun st => ?_)
  · intro t ht
    obtain ⟨w0, w1, rest, hq, ht⟩ := exec_setupRx_next ht
    rw [exec_setupRx_cons (s := s.withLatch p src off) st hq]
    exact exec_decodeSetup_withLatch p src off
      (s := { s with rxFifo := rest, accesses := s.accesses ++ [.popRx w0, .popRx w1] }) _ _ t ht
  · rw [(setupDoneResult s).1, (setupDoneResult (s.withLatch p src off)).1]
    exact .withLatch hs p src off
  · rw [(pktstsOtherIgnored s).1, (pktstsOtherIgnored (s.withLatch p src off)).1]
    exact .withLatch hs p src off

theorem exec_rxflvl_withLatch : Result.Follows (exec .rxflvl s) (exec .rxflvl (s.withLatch p src off)) := by
  intro t ht
  obtain ⟨w, rest, hq, ht⟩ := exec_rxflvl_next ht
  rw [exec_rxflvl_cons (s := s.withLatch p src off) hq]
  exact exec_decodeRxsts_withLatch p src off
    (s := { s with rxFifo := rest, accesses := s.accesses ++ [.popRx w] }) hs _ w t ht

/-- A completion outside a transfer goes to `Idle`. -/
theorem inComplete_withLatch : Result.Follows (inComplete s) (inComplete (s.withLatch p src off)) := by
  have hstate : (s.withLatch p src off).cteState = s.cteState := rfl
  cases hc : s.cteState with
  | idle =>
    rw [inComplete_idle hc, inComplete_idle (hstate.trans hc)]
    exact .withLatch nofun p src off
  | statusPending =>
    rw [inComplete_statusPending hc, inComplete_statusPending (hstate.trans hc)]
    exact .withLatch nofun p src off
  | setupReceived =>
    intro t ht
    rw [inComplete_setupReceived hc] at ht
    cases ht
  | txInProgress => exact absurd hc hs

end

theorem streamScanned_sameButLatch {s s' : State} (h : s.SameButLatch s') :
    (streamScanned s).SameButLatch (streamScanned s') := by
  obtain rfl | ⟨hs, p, src, off, rfl⟩ := h
  · exact .refl _
  · exact .withLatch (s := streamScanned s) hs p src off

theorem exec_iepint_withLatch {s : State} (p : SetupPacket) (src : Src) (off : Half) (hs : s.cteState ≠ .txInProgress) :
    Result.Follows (exec .iepint s) (exec .iepint (s.withLatch p src off)) := by
  cases hx : s.epIn0.xfrc with
  | false =>
    rw [iepintWithoutEndpoint0Completion s hx, iepintWithoutEndpoint0Completion (s.withLatch p src off) hx]
    exact .withLatch hs p src off
  | true =>
    rw [exec_iepint_completion hx, exec_iepint_completion (s := s.withLatch p src off) hx]
    exact (inComplete_withLatch (s := completionTaken s) p src off hs).andThen fun _ _ h =>
      .next (streamScanned_sameButLatch h)

/-! ## Steps -/

/-- The events of a service step, from states the same but for the latch. -/
theorem exec_sameButLatch {m : RegMap} {g : Word} {i : Instr} (hi : i ∈ gintstsEvents m g) {s s' : State}
    (h : s.SameButLatch s') : Result.Follows (exec i s) (exec i s') := by
  obtain rfl | ⟨hs, p, src, off, rfl⟩ := h
  · exact .refl _
  · refine gintstsEvents_elim (P := fun i => Result.Follows (exec i s) (exec i (s.withLatch p src off)))
      ?_ (exec_rxflvl_withLatch p src off hs) ?_ (exec_iepint_withLatch p src off hs) hi
    · rw [usbrstResult.2, usbrstResult.2]
      exact .withLatch nofun p src off
    · rw [enumdneResult.2, enumdneResult.2]
      exact .withLatch hs p src off

theorem runEvents_sameButLatch {is : List Instr}
    (hi : ∀ i ∈ is, ∀ s s' : State, s.SameButLatch s' → Result.Follows (exec i s) (exec i s')) {s s' : State}
    (h : s.SameButLatch s') : Result.Follows (runEvents is s) (runEvents is s') := by
  induction is generalizing s s' with
  | nil => exact .next h
  | cons i is ih =>
    exact (hi i List.mem_cons_self s s' h).andThen fun t t' => ih fun j hj => hi j (List.mem_cons_of_mem _ hj)

theorem service_withLatch {s : State} (p : SetupPacket) (src : Src) (off : Half) (hs : s.cteState ≠ .txInProgress) :
    Result.Follows (service s) (service (s.withLatch p src off)) :=
  runEvents_sameButLatch (fun _ hi _ _ => exec_sameButLatch hi) (s := enterService s)
    (.withLatch (s := enterService s) hs p src off)

/-- The environment does not look at the latch. -/
theorem envStep_withLatch (p : SetupPacket) (src : Src) (off : Half) (e : EnvStep) (s : State) :
    envStep e (s.withLatch p src off) = (envStep e s).withLatch p src off :=
  envStep_unseen id id id (fun _ => p) (fun x => { x with src := src, offset := off }) e s

theorem step_withLatch {s : State} (p : SetupPacket) (src : Src) (off : Half) (hs : s.cteState ≠ .txInProgress) :
    Result.Follows (step s) (step (s.withLatch p src off)) := by
  have hirq : (s.withLatch p src off).irq = s.irq := rfl
  have hschedule : (s.withLatch p src off).schedule = s.schedule := rfl
  unfold step
  rw [hschedule, hirq]
  cases s.schedule with
  | nil =>
    dsimp only
    split_ifs
    · exact service_withLatch p src off hs
    · exact .withLatch hs p src off
  | cons m rest =>
    cases m with
    | env e =>
      have henv := envStep_withLatch p src off e { s with schedule := rest }
      have hstate : (envStep e { s with schedule := rest }).cteState = s.cteState := (envStep_envKeeps e _).cteState
      refine (?_ : Result.Follows _ (.next (envStep e (State.withLatch p src off { s with schedule := rest }))))
      rw [henv]
      have hs : (envStep e { s with schedule := rest }).cteState ≠ .txInProgress := by rwa [hstate]
      exact .withLatch hs p src off
    | service =>
      dsimp only
      split_ifs
      · exact service_withLatch (s := { s with schedule := rest }) p src off hs
      · exact .withLatch hs p src off
    | serviceAll =>
      dsimp only
      split_ifs
      · exact service_withLatch p src off hs
      · exact .withLatch hs p src off

/-- Settles O58: the latch and the context changed, and then `GCTL`, which no step looks at. -/
theorem unspecifiedResetValuesAreNeverRead : Obligations.UnspecifiedResetValuesAreNeverRead := by
  intro s t p src off g hs h
  obtain ⟨u, hu, hsame⟩ := step_withLatch p src off hs t h
  have hgctl := step_relabel (fun _ => g) id id (s.withLatch p src off)
  rw [hu] at hgctl
  refine ⟨u.relabel (fun _ => g) id id, hgctl, ?_⟩
  obtain rfl | ⟨ht, q, x, o, rfl⟩ := hsame
  · exact ⟨rfl, fun _ => ⟨rfl, rfl⟩⟩
  · exact ⟨rfl, fun hc => absurd hc ht⟩

end Sys2Proof.Machine
end
